-- ==== Sys2Proof/Word.lean ====
section
/-! DEFINITION. The word types of the IFS-8: what the manual treats as bits, and the numbers that name things. -/

namespace Sys2Proof

/-- A byte of a frame, of a payload, of a code sequence or of pixel data. -/
abbrev Byte := BitVec 8

/-- A raw item colour (R126). -/
abbrev Colour := BitVec 32

/-- A 36-bit byte address of the pass-through ports (Conventions, "Addresses and requests"). -/
abbrev Address := BitVec 36

/-- A frame number, which wraps from FFFFFFFFH to 0 (R26). -/
abbrev FrameNumber := BitVec 32

/-- A sequence number of the posted write queue, which wraps from FFFFFFFFH to 0 (R142). -/
abbrev SeqNumber := BitVec 32

/-- A request tag, 0 to 15 (R138). -/
abbrev Tag := Fin 16

/-- A surface number, 0 to 7 (R1). -/
abbrev SurfaceId := Fin 8

/-- A string slot number, 0 to 63 (R88). -/
abbrev SlotId := Fin 64

/-- A buffer number of a surface, 0 to 3 (R6). -/
abbrev BufferId := Fin 4

end Sys2Proof
end

