-- ==== Sys2Proof/Config.lean ====
section
/-! DEFINITION. The fixed capacities of the IFS-8. The spec leaves no value to the implementation and no result
undefined, so this file holds no free value. -/

namespace Sys2Proof

/-- Records of the item pool (R38). -/
abbrev Config.poolSize : Nat := 96

/-- Items on one list (R45). -/
abbrev Config.listCapacity : Nat := 16

/-- Entries of the posted write queue (R143). -/
abbrev Config.queueCapacity : Nat := 16

/-- Entries ISSUED at once (R143). -/
abbrev Config.issueLimit : Nat := 4

/-- Reads on the held-read list (R147). -/
abbrev Config.heldCapacity : Nat := 4

/-- Places of the answer order list (R150). -/
abbrev Config.placeCapacity : Nat := 32

/-- Notices ahead of a LOST notice (R161). -/
abbrev Config.noticeRoom : Nat := 31

/-- The dropped count at which a LOST notice stays (R162). -/
abbrev Config.droppedMax : Nat := 65535

/-- Codes of one string slot (R88). -/
abbrev Config.slotCapacity : Nat := 32

/-- Rendered cells of one TEXT item (R113). -/
abbrev Config.cellLimit : Nat := 64

/-- Payload bytes of a frame (R171). -/
abbrev Config.payloadMax : Nat := 64

end Sys2Proof
end

