-- ==== Sys2Proof/Syntax.lean ====
section
/-! DEFINITION. The commands of the IFS-8: one constructor of `Instr` per row of spec/opcode_table.json, with the
row's operands. -/

namespace Sys2Proof

/-- What a good command frame carries beside its command number, which is the row's, and its CRC, which is right:
the sequence byte, the payload, the bytes that arrive after the CRC byte, and the bits of a last byte left incomplete
at the rise of CFG_CSN (R170, R171). -/
structure CommandFrame where
  seq     : Byte
  payload : List Byte
  extra   : List Byte
  tail    : List Bool
  deriving DecidableEq, Repr

/-- What a transaction carried in as it was received: its complete bytes, and the bits of a last byte left incomplete
at the rise of CFG_CSN (R170). -/
structure RawTransaction where
  bytes : List Byte
  tail  : List Bool
  deriving DecidableEq, Repr

/-- One byte of an upstream write, with its enable (R138). -/
structure Lane where
  data    : Byte
  enabled : Bool
  deriving DecidableEq, Repr

/-- An upstream write request; its length is the number of its lanes (R138). -/
structure WriteRequest where
  addr  : Address
  tag   : Tag
  lanes : List Lane
  deriving DecidableEq, Repr

/-- An upstream read request (R138). -/
structure ReadRequest where
  addr   : Address
  tag    : Tag
  length : Nat
  deriving DecidableEq, Repr

/-- The status of a downstream write completion (R138). -/
inductive CompletionStatus where
  | ok
  | fault
  deriving DecidableEq, Repr

/-- A downstream read response: OK with the read's data, or FAULT (R138). -/
inductive ReadReturn where
  | ok (data : List Byte)
  | fault
  deriving DecidableEq, Repr

/-- The commands, one per row of spec/opcode_table.json, in the table's order. -/
inductive Instr where
  | nop (f : CommandFrame)
  | softReset (f : CommandFrame)
  | defineSurface (f : CommandFrame)
  | activateSurface (f : CommandFrame)
  | retireSurface (f : CommandFrame)
  | releaseSurface (f : CommandFrame)
  | readSurface (f : CommandFrame)
  | addItem (f : CommandFrame)
  | setItem (f : CommandFrame)
  | removeItem (f : CommandFrame)
  | moveItem (f : CommandFrame)
  | clearStaged (f : CommandFrame)
  | cloneActive (f : CommandFrame)
  | selectPage (f : CommandFrame)
  | readItem (f : CommandFrame)
  | commit (f : CommandFrame)
  | cancelCommit (f : CommandFrame)
  | writeGlyph (f : CommandFrame)
  | writePageHeader (f : CommandFrame)
  | readGlyph (f : CommandFrame)
  | writeString (f : CommandFrame)
  | readString (f : CommandFrame)
  | setClock (f : CommandFrame)
  | holdClock (f : CommandFrame)
  | adjustClock (f : CommandFrame)
  | readClock (f : CommandFrame)
  | setBypass (f : CommandFrame)
  | drain (f : CommandFrame)
  | readStatus (f : CommandFrame)
  | nextNotice (f : CommandFrame)
  /-- A transaction whose complete bytes form a bad frame (R173), and the bits of an incomplete last byte. With no
  complete byte it is an empty transaction (R171; log 4). -/
  | badFrame (raw : RawTransaction)
  /-- A good frame whose command number is not in the catalogue (R174). -/
  | badCommand (number : Byte) (f : CommandFrame)
  /-- RESETN falls; `received` holds the complete bytes of the transaction in progress on the link, `none` when
  CFG_CSN is high (R178). -/
  | hardReset (received : Option (List Byte))
  /-- RESETN rises; `csnLow` says whether CFG_CSN is low then (R178, R187). -/
  | resetnRelease (csnLow : Bool)
  | tick
  | forcedCommit (n : SurfaceId)
  | forcedRetirement (n : SurfaceId)
  /-- A write arrives at the upstream port; it is taken as R139 allows. -/
  | upstreamWrite (w : WriteRequest)
  /-- A read arrives at the upstream port; it is taken as R139 allows. -/
  | upstreamRead (r : ReadRequest)
  | writeIssue
  | writeCompletion (st : CompletionStatus)
  | heldReadRelease
  | readResponse (tag : Tag) (ret : ReadReturn)
  | upstreamAnswer (tag : Tag)
  | drainMet
  deriving DecidableEq, Repr

end Sys2Proof
end

