-- ==== Sys2Proof/Machine/Codec.lean ====
section
/-! DEFINITION. Bytes on the configuration link: bit order, the CRC, numbers of several bytes, and the judging of a
received frame (R170 to R174, R179, R180). -/

namespace Sys2Proof.Machine

/-- The byte whose bits arrive in the order given, most significant first (R170). -/
def byteOfBits (b7 b6 b5 b4 b3 b2 b1 b0 : Bool) : Byte :=
  BitVec.ofBool b7 ++ BitVec.ofBool b6 ++ BitVec.ofBool b5 ++ BitVec.ofBool b4
    ++ BitVec.ofBool b3 ++ BitVec.ofBool b2 ++ BitVec.ofBool b1 ++ BitVec.ofBool b0

/-- The complete bytes of a run of serial bits; the bits of an incomplete last byte are discarded (R170). -/
def bytesOfBits : List Bool → List Byte
  | b7 :: b6 :: b5 :: b4 :: b3 :: b2 :: b1 :: b0 :: rest =>
    byteOfBits b7 b6 b5 b4 b3 b2 b1 b0 :: bytesOfBits rest
  | _ => []

/-- The bits of an incomplete last byte, which the rise of CFG_CSN discards (R170). -/
def tailOfBits : List Bool → List Bool
  | _ :: _ :: _ :: _ :: _ :: _ :: _ :: _ :: rest => tailOfBits rest
  | bits => bits

/-- The serial bits of a byte, most significant first (R170). -/
def bitsOfByte (b : Byte) : List Bool :=
  [b.getLsbD 7, b.getLsbD 6, b.getLsbD 5, b.getLsbD 4, b.getLsbD 3, b.getLsbD 2, b.getLsbD 1, b.getLsbD 0]

/-- The serial bits of a run of bytes. -/
def bitsOfBytes : List Byte → List Bool
  | [] => []
  | b :: bs => bitsOfByte b ++ bitsOfBytes bs

/-- One place of the CRC's shift: the check moves up one place, and takes 07H when a one leaves it (R172). -/
def crcShift (c : Byte) : Byte :=
  if c.getLsbD 7 then (c <<< 1) ^^^ 0x07 else c <<< 1

/-- The check after one more byte: combined with the byte, then shifted up eight times (R172). -/
def crcByte (c b : Byte) : Byte := Nat.repeat crcShift 8 (c ^^^ b)

/-- The CRC of a run of bytes, from the initial value 00H (R172). -/
def crc (bytes : List Byte) : Byte := bytes.foldl crcByte 0

/-- A number sent most significant byte first (R179). -/
def beNat (bytes : List Byte) : Nat := bytes.foldl (fun acc b => acc * 256 + b.toNat) 0

/-- A number in `k` bytes, most significant byte first (R179). -/
def beBytes : Nat → Nat → List Byte
  | 0, _ => []
  | k + 1, n => beBytes k (n / 256) ++ [BitVec.ofNat 8 n]

/-- The bytes of a good command frame with a given command number, and those that follow its CRC (R180). -/
def frameBytes (number : Byte) (f : CommandFrame) : List Byte :=
  let head := number :: f.seq :: BitVec.ofNat 8 f.payload.length :: f.payload
  head ++ crc head :: f.extra

/-- The bits of a transaction that carries a good command frame: those of its bytes and of an incomplete last byte. -/
def frameBits (number : Byte) (f : CommandFrame) : List Bool := bitsOfBytes (frameBytes number f) ++ f.tail

/-- What the core makes of the complete bytes of a transaction at its end. -/
inductive FrameVerdict where
  /-- No complete byte: the transaction is empty (R171). -/
  | empty
  /-- A bad frame, with the command number and the sequence that the record echoes (R173). -/
  | bad (number seq : Byte)
  /-- A frame that is not bad, to be taken by R174. -/
  | good (number : Byte) (f : CommandFrame)
  deriving DecidableEq, Repr

/-- The judging of a transaction's complete bytes; `tail` are the bits of an incomplete last byte, which have no part
in it (R170, R171, R173). -/
def judgeFrame (tail : List Bool) : List Byte → FrameVerdict
  | [] => .empty
  | [number] => .bad number 0
  | [number, seq] => .bad number seq
  | number :: seq :: len :: rest =>
    if Config.payloadMax < len.toNat then .bad number seq
    else
      let payload := rest.take len.toNat
      match rest.drop len.toNat with
      | [] => .bad number seq
      | check :: extra =>
        if check = crc (number :: seq :: len :: payload) then .good number ⟨seq, payload, extra, tail⟩
        else .bad number seq

/-- The command catalogue of section 10.5: the row of the table that a command number stands for. -/
def catalogue (number : Byte) : Option (CommandFrame → Instr) :=
  match number.toNat with
  | 0x00 => some .nop
  | 0x01 => some .softReset
  | 0x10 => some .defineSurface
  | 0x11 => some .activateSurface
  | 0x12 => some .retireSurface
  | 0x13 => some .releaseSurface
  | 0x14 => some .readSurface
  | 0x20 => some .addItem
  | 0x21 => some .setItem
  | 0x22 => some .removeItem
  | 0x23 => some .moveItem
  | 0x24 => some .clearStaged
  | 0x25 => some .cloneActive
  | 0x26 => some .selectPage
  | 0x27 => some .readItem
  | 0x30 => some .commit
  | 0x31 => some .cancelCommit
  | 0x40 => some .writeGlyph
  | 0x41 => some .writePageHeader
  | 0x42 => some .readGlyph
  | 0x43 => some .writeString
  | 0x44 => some .readString
  | 0x50 => some .setClock
  | 0x51 => some .holdClock
  | 0x52 => some .adjustClock
  | 0x53 => some .readClock
  | 0x60 => some .setBypass
  | 0x61 => some .drain
  | 0x62 => some .readStatus
  | 0x70 => some .nextNotice
  | _ => none

end Sys2Proof.Machine
end

