-- ==== Sys2Proof/WellFormed.lean ====
section
/-! DEFINITION. Which commands the outside can send: the ranges that R138 and R171 to R174 give the operands. -/

namespace Sys2Proof

/-- An incomplete last byte has fewer than 8 bits (R170). -/
def tailWf (tail : List Bool) : Bool := tail.length < 8

/-- A good frame's payload holds at most 64 bytes (R171), and fewer than 8 bits follow its bytes (R170). -/
def CommandFrame.wf (f : CommandFrame) : Bool := f.payload.length ≤ Config.payloadMax && tailWf f.tail

/-- A request covers 1 to 256 bytes (R138). -/
def lengthWf (n : Nat) : Bool := 1 ≤ n && n ≤ 256

/-- A transaction is a bad frame in the sense of R173. -/
def isBadFrame (bytes : List Byte) : Bool :=
  match Machine.judgeFrame [] bytes with
  | .bad _ _ => true
  | .empty => false
  | .good _ _ => false

/-- The operands of a command are in the ranges the spec gives them. -/
def Instr.wf : Instr → Bool
  | .nop f => f.wf
  | .softReset f => f.wf
  | .defineSurface f => f.wf
  | .activateSurface f => f.wf
  | .retireSurface f => f.wf
  | .releaseSurface f => f.wf
  | .readSurface f => f.wf
  | .addItem f => f.wf
  | .setItem f => f.wf
  | .removeItem f => f.wf
  | .moveItem f => f.wf
  | .clearStaged f => f.wf
  | .cloneActive f => f.wf
  | .selectPage f => f.wf
  | .readItem f => f.wf
  | .commit f => f.wf
  | .cancelCommit f => f.wf
  | .writeGlyph f => f.wf
  | .writePageHeader f => f.wf
  | .readGlyph f => f.wf
  | .writeString f => f.wf
  | .readString f => f.wf
  | .setClock f => f.wf
  | .holdClock f => f.wf
  | .adjustClock f => f.wf
  | .readClock f => f.wf
  | .setBypass f => f.wf
  | .drain f => f.wf
  | .readStatus f => f.wf
  | .nextNotice f => f.wf
  | .badFrame raw => (raw.bytes.isEmpty || isBadFrame raw.bytes) && tailWf raw.tail
  | .badCommand number f => (Machine.catalogue number).isNone && f.wf
  | .hardReset _ => true
  | .resetnRelease _ => true
  | .tick => true
  | .forcedCommit _ => true
  | .forcedRetirement _ => true
  | .upstreamWrite w => lengthWf w.lanes.length
  | .upstreamRead r => lengthWf r.length
  | .writeIssue => true
  | .writeCompletion _ => true
  | .heldReadRelease => true
  | .readResponse _ (.ok data) => lengthWf data.length
  | .readResponse _ .fault => true
  | .upstreamAnswer _ => true
  | .drainMet => true

end Sys2Proof
end

