-- ==== Sys2Proof/Decode.lean ====
section
/-! DEFINITION. Reading commands from bits. The table gives no row any bits, so no word spells a command; the
configuration port reads its commands from the bytes of a transaction (R170 to R174), and that reading stands here
with its encoder. -/

namespace Sys2Proof

/-- The command that a word spells by the table's bits: the table gives no row any bits, so there is none. -/
def decodeTableWord (_nbits _w : Nat) : Option Instr := none

/-- The row that a transaction stands for: its complete bytes (R171, R173, R174) and the bits of an incomplete last
byte. An empty transaction is carried by the row of bad frames, with no byte (log 4). -/
def decodeTransaction (bytes : List Byte) (tail : List Bool) : Instr :=
  match Machine.judgeFrame tail bytes with
  | .empty => .badFrame ⟨[], tail⟩
  | .bad _ _ => .badFrame ⟨bytes, tail⟩
  | .good number f =>
    match Machine.catalogue number with
    | some row => row f
    | none => .badCommand number f

/-- The row that the serial bits of a transaction stand for, in the order CFG_MOSI carries them (R170). -/
def decodeTransactionBits (bits : List Bool) : Instr :=
  decodeTransaction (Machine.bytesOfBits bits) (Machine.tailOfBits bits)

/-- The transaction a row stands for: its complete bytes and the bits of an incomplete last byte; rows of the other
ports have none. -/
def encodeTransaction : Instr → Option (List Byte × List Bool)
  | .nop f => some (Machine.frameBytes 0x00 f, f.tail)
  | .softReset f => some (Machine.frameBytes 0x01 f, f.tail)
  | .defineSurface f => some (Machine.frameBytes 0x10 f, f.tail)
  | .activateSurface f => some (Machine.frameBytes 0x11 f, f.tail)
  | .retireSurface f => some (Machine.frameBytes 0x12 f, f.tail)
  | .releaseSurface f => some (Machine.frameBytes 0x13 f, f.tail)
  | .readSurface f => some (Machine.frameBytes 0x14 f, f.tail)
  | .addItem f => some (Machine.frameBytes 0x20 f, f.tail)
  | .setItem f => some (Machine.frameBytes 0x21 f, f.tail)
  | .removeItem f => some (Machine.frameBytes 0x22 f, f.tail)
  | .moveItem f => some (Machine.frameBytes 0x23 f, f.tail)
  | .clearStaged f => some (Machine.frameBytes 0x24 f, f.tail)
  | .cloneActive f => some (Machine.frameBytes 0x25 f, f.tail)
  | .selectPage f => some (Machine.frameBytes 0x26 f, f.tail)
  | .readItem f => some (Machine.frameBytes 0x27 f, f.tail)
  | .commit f => some (Machine.frameBytes 0x30 f, f.tail)
  | .cancelCommit f => some (Machine.frameBytes 0x31 f, f.tail)
  | .writeGlyph f => some (Machine.frameBytes 0x40 f, f.tail)
  | .writePageHeader f => some (Machine.frameBytes 0x41 f, f.tail)
  | .readGlyph f => some (Machine.frameBytes 0x42 f, f.tail)
  | .writeString f => some (Machine.frameBytes 0x43 f, f.tail)
  | .readString f => some (Machine.frameBytes 0x44 f, f.tail)
  | .setClock f => some (Machine.frameBytes 0x50 f, f.tail)
  | .holdClock f => some (Machine.frameBytes 0x51 f, f.tail)
  | .adjustClock f => some (Machine.frameBytes 0x52 f, f.tail)
  | .readClock f => some (Machine.frameBytes 0x53 f, f.tail)
  | .setBypass f => some (Machine.frameBytes 0x60 f, f.tail)
  | .drain f => some (Machine.frameBytes 0x61 f, f.tail)
  | .readStatus f => some (Machine.frameBytes 0x62 f, f.tail)
  | .nextNotice f => some (Machine.frameBytes 0x70 f, f.tail)
  | .badFrame raw => some (raw.bytes, raw.tail)
  | .badCommand number f => some (Machine.frameBytes number f, f.tail)
  | .hardReset _ => none
  | .resetnRelease _ => none
  | .tick => none
  | .forcedCommit _ => none
  | .forcedRetirement _ => none
  | .upstreamWrite _ => none
  | .upstreamRead _ => none
  | .writeIssue => none
  | .writeCompletion _ => none
  | .heldReadRelease => none
  | .readResponse _ _ => none
  | .upstreamAnswer _ => none
  | .drainMet => none

end Sys2Proof
end

