-- ==== Sys2Proof/Machine/State.lean ====
section
/-! DEFINITION. The state of the IFS-8: every piece of state the spec gives the core, as plain data, its value after
a hard reset, and the reasons a step could stop. -/

namespace Sys2Proof.Machine

/-- Why a step could stop with a fault. The spec gives every event an effect, so there is no such reason and no
command raises one. -/
inductive Fault where
  deriving DecidableEq, Repr

/-- Why a step could refuse a command. -/
inductive Refusal where
  /-- Raised by an arm of `exec` for a command that has no meaning yet; no arm raises it now. Safe: the model stops. -/
  | notModelled (mnemonic : String)
  deriving DecidableEq, Repr

/-! Surfaces, items and frames (chapters 1 to 4) -/

/-- The state of a surface record (R1). -/
inductive SurfaceState where
  | vacant
  | defined
  | live
  | retiring
  deriving DecidableEq, Repr

/-- A pixel format (Conventions, "Pixel formats"). -/
inductive PixelFormat where
  | y8
  | yuyv
  | rgb565
  | xrgb8888
  deriving DecidableEq, Repr

/-- A glyph page (R79). -/
inductive Page where
  | a
  | b
  deriving DecidableEq, Repr

/-- How a colour is laid on a pixel (R42, R127, R128). -/
inductive Blend where
  | opaqueBlend
  | halfBlend
  deriving DecidableEq, Repr

/-- The fields of a TEXT item (R42). -/
structure TextItem where
  x       : Nat
  y       : Nat
  slot    : SlotId
  scaleX  : Nat
  scaleY  : Nat
  spacing : Nat
  ink     : Colour
  edge    : Colour
  shade   : Colour
  blend   : Blend
  deriving DecidableEq, Repr

/-- The rectangle and the ink colour of a BOX or a REDACT item (R42). -/
structure RectItem where
  x   : Nat
  y   : Nat
  w   : Nat
  h   : Nat
  ink : Colour
  deriving DecidableEq, Repr

/-- The contents of an item record; the fields that a kind does not hold are absent from its constructor (R42). -/
inductive Item where
  | text (t : TextItem)
  | box (r : RectItem) (blend : Blend)
  | redact (r : RectItem)
  deriving DecidableEq, Repr

/-- A value of the calendar clock (R96). -/
structure ClockValue where
  year   : Nat
  month  : Nat
  day    : Nat
  hour   : Nat
  minute : Nat
  second : Nat
  milli  : Nat
  deriving DecidableEq, Repr

/-- The geometry fields and the behaviour fields of a surface record (R1, R3, R4). -/
structure SurfaceDef where
  base            : Nat
  pitch           : Nat
  width           : Nat
  height          : Nat
  format          : PixelFormat
  bufferCount     : Nat
  stride          : Nat
  rewindTolerance : Nat
  deadline        : Nat
  frameNotices    : Bool
  deriving DecidableEq, Repr

/-- The frame record of a surface (R21). -/
structure FrameRecord where
  currentBuffer : Option BufferId
  highWater     : Nat
  number        : FrameNumber
  time          : Option ClockValue
  deriving DecidableEq, Repr

/-- A cleared frame record (R1). -/
def FrameRecord.cleared : FrameRecord := ⟨none, 0, 0, none⟩

/-- A surface record (R1); an absent field is `none`. -/
structure Surface where
  state             : SurfaceState
  defn              : Option SurfaceDef
  staged            : List Item
  stagedPage        : Option Page
  active            : List Item
  activePage        : Option Page
  commitPending     : Bool
  deadlineRemaining : Option Nat
  lastCommitFrame   : Option FrameNumber
  frame             : FrameRecord
  deriving DecidableEq, Repr

/-- A VACANT surface record (R1, R18). -/
def Surface.vacant : Surface where
  state             := .vacant
  defn              := none
  staged            := []
  stagedPage        := none
  active            := []
  activePage        := none
  commitPending     := false
  deadlineRemaining := none
  lastCommitFrame   := none
  frame             := .cleared

/-! The stores (chapter 5) -/

/-- The shade of a glyph pixel (Conventions, "Glyphs"). -/
inductive Shade where
  | clear
  | ink
  | edge
  | shade
  deriving DecidableEq, Repr

/-- A glyph cell: 240 shades, the one of row r and column c at place 12 × r + c (R79). -/
abbrev GlyphCell := Vector Shade 240

/-- A page header (R80). -/
structure PageHeader where
  digitBase   : Nat
  amGlyph     : Nat
  pmGlyph     : Nat
  weekdayBase : Nat
  deriving DecidableEq, Repr

/-- A glyph page: 128 cells and a header (R79). -/
structure GlyphPage where
  cells  : Vector GlyphCell 128
  header : PageHeader
  deriving DecidableEq, Repr

/-- A glyph page after a hard reset (R81). -/
def GlyphPage.blank : GlyphPage :=
  ⟨Vector.replicate 128 (Vector.replicate 240 .clear), ⟨0, 0, 0, 0⟩⟩

/-- A string slot: its codes and its reference count (R88). -/
structure StringSlot where
  codes    : List Byte
  refCount : Nat
  deriving DecidableEq, Repr

/-! The clock (chapter 6) -/

/-- The state of the calendar clock (R96). -/
inductive ClockState where
  | stopped
  | running
  deriving DecidableEq, Repr

/-- The first value of the clock's range (R96). -/
def ClockValue.first : ClockValue := ⟨2000, 1, 1, 0, 0, 0, 0⟩

/-- The last value of the clock's range (R96). -/
def ClockValue.last : ClockValue := ⟨2099, 12, 31, 23, 59, 59, 999⟩

/-! The pass-through unit (chapter 8) -/

/-- The state of a posted write (R143). -/
inductive EntryState where
  | queued
  | issued
  deriving DecidableEq, Repr

/-- The surface and the frame number that a queue entry carries (R9). -/
structure EntryOwner where
  surface : SurfaceId
  frame   : FrameNumber
  deriving DecidableEq, Repr

/-- An entry of the posted write queue (R143); its length is the number of its lanes. -/
structure QueueEntry where
  seq   : SeqNumber
  addr  : Address
  lanes : List Lane
  tag   : Tag
  owner : Option EntryOwner
  state : EntryState
  deriving DecidableEq, Repr

/-- A read on the held-read list (R147). -/
structure HeldRead where
  req         : ReadRequest
  overlapMark : Option SeqNumber
  arrivalMark : SeqNumber
  deriving DecidableEq, Repr

/-- What an upstream answer says (R138). -/
inductive AnswerStatus where
  | posted
  | ok (data : List Byte)
  | fault
  deriving DecidableEq, Repr

/-- An upstream answer (R138). -/
structure Answer where
  tag    : Tag
  status : AnswerStatus
  deriving DecidableEq, Repr

/-- What a place of the answer order list stands for (R150). -/
inductive PlaceState where
  /-- A read on the held-read list. -/
  | held
  /-- A read that has been forwarded and awaits its response. -/
  | forwarded
  /-- An answer that is ready and waits. -/
  | ready (a : AnswerStatus)
  deriving DecidableEq, Repr

/-- A place of the answer order list (R150). -/
structure Place where
  tag   : Tag
  state : PlaceState
  deriving DecidableEq, Repr

/-- A pending drain: its mark and its identifier (R151). -/
structure PendingDrain where
  mark : SeqNumber
  id   : Byte
  deriving DecidableEq, Repr

/-- A request that waits at the upstream port (R139). -/
inductive UpstreamRequest where
  | write (w : WriteRequest)
  | read (r : ReadRequest)
  deriving DecidableEq, Repr

/-- A request presented at the downstream port (R138). -/
inductive DownstreamRequest where
  | write (addr : Address) (lanes : List Lane) (tag : Tag)
  | read (addr : Address) (length : Nat) (tag : Tag)
  deriving DecidableEq, Repr

/-! Notices and the configuration port (chapters 9 and 10) -/

/-- A notice (R160). -/
inductive Notice where
  | frame (n : SurfaceId) (number : FrameNumber) (buffer : BufferId)
  | committed (n : SurfaceId) (number : FrameNumber)
  | commitForced (n : SurfaceId) (number : FrameNumber)
  | retired (n : SurfaceId) (number : FrameNumber) (forced : Bool)
  | drained (id : Byte)
  | writeFault (owner : Option EntryOwner) (addr : Address) (length : Nat) (tag : Tag)
  | malformed (addr : Address) (length : Nat) (tag : Tag)
  | clockEnd
  | lost (dropped : Nat)
  deriving DecidableEq, Repr

/-- A result code (R175). -/
inductive ResultCode where
  | ok
  | badFrame
  | badCommand
  | badArg
  | state
  | locked
  | busy
  | noItem
  | listFull
  | inUse
  | overlap
  | tooLate
  | empty
  deriving DecidableEq, Repr

/-- The last-result record (R175). -/
structure LastResult where
  code    : ResultCode
  seq     : Byte
  command : Byte
  payload : List Byte
  deriving DecidableEq, Repr

/-- The last-result record after a hard reset (R175). -/
def LastResult.reset : LastResult := ⟨.ok, 0, 0, []⟩

/-- The state of the block. -/
structure State where
  /-- The surface table (R1). -/
  surfaces      : Vector Surface 8
  /-- The free count of the item pool (R38). -/
  freeCount     : Nat
  /-- Glyph page A (R79). -/
  pageA         : GlyphPage
  /-- Glyph page B (R79). -/
  pageB         : GlyphPage
  /-- The string store (R88). -/
  slots         : Vector StringSlot 64
  /-- The value of the calendar clock (R96). -/
  clock         : ClockValue
  /-- The state of the calendar clock (R96). -/
  clockState    : ClockState
  /-- The posted write queue, the head first (R143). -/
  queue         : List QueueEntry
  /-- The next sequence number (R142). -/
  nextSeq       : SeqNumber
  /-- The held-read list, the oldest first (R147). -/
  held          : List HeldRead
  /-- The answer order list, in the order the places were taken (R150). -/
  places        : List Place
  /-- The pending drain (R151). -/
  drain         : Option PendingDrain
  /-- The bypass switch: on or off (R153). -/
  bypass        : Bool
  /-- The requests that wait at the upstream port, in arrival order (R139). -/
  upstream      : List UpstreamRequest
  /-- The notice queue, the oldest first (R159). -/
  notices       : List Notice
  /-- The last-result record (R175). -/
  record        : LastResult
  /-- The receive frame in progress (R170). -/
  rxFrame       : List Byte
  /-- CFG_CSN is low in a transaction that a hard reset has abandoned (R178). -/
  linkAbandoned : Bool
  /-- RESETN is asserted (R186). -/
  resetAsserted : Bool
  /-- MODEL'S OWN (log 7): the requests presented at the downstream port, the oldest first. -/
  presented     : List DownstreamRequest
  /-- MODEL'S OWN (log 7): the answers returned at the upstream port, the oldest first. -/
  answers       : List Answer
  /-- MODEL'S OWN (log 7): the bits CFG_MISO carried in the latest transaction, one for each bit received. -/
  misoOut       : List Bool
  /-- The commands that wait, first in first out. -/
  pending       : List Instr
  deriving DecidableEq, Repr

/-- The state after a hard reset with RESETN released (R18, R41, R81, R91, R96, R155, R167, R175, R187; log 6). -/
def State.reset : State where
  surfaces      := Vector.replicate 8 .vacant
  freeCount     := Config.poolSize
  pageA         := .blank
  pageB         := .blank
  slots         := Vector.replicate 64 ⟨[], 0⟩
  clock         := .first
  clockState    := .stopped
  queue         := []
  nextSeq       := 0
  held          := []
  places        := []
  drain         := none
  bypass        := false
  upstream      := []
  notices       := []
  record        := .reset
  rxFrame       := []
  linkAbandoned := false
  resetAsserted := false
  presented     := []
  answers       := []
  misoOut       := []
  pending       := []

end Sys2Proof.Machine
end

