-- ==== Sys2Proof/Machine/Clock.lean ====
section
/-! DEFINITION. The calendar (chapter 6): months, leap years, weekdays, the carry and the borrow of the clock's
fields. -/

namespace Sys2Proof.Machine

/-- A year of the clock's range is a leap year when it is a multiple of 4 (R97). -/
def isLeap (year : Nat) : Bool := year % 4 == 0

/-- The length of a month (R97). -/
def monthLength (year month : Nat) : Nat :=
  match month with
  | 1 => 31
  | 2 => if isLeap year then 29 else 28
  | 3 => 31
  | 4 => 30
  | 5 => 31
  | 6 => 30
  | 7 => 31
  | 8 => 31
  | 9 => 30
  | 10 => 31
  | 11 => 30
  | _ => 31

/-- The year lies within the clock's range (R96). -/
def ClockValue.inRange (v : ClockValue) : Bool := 2000 ≤ v.year && v.year ≤ 2099

/-- The value is a valid date and time of the clock's range (R96, R97). -/
def ClockValue.valid (v : ClockValue) : Bool :=
  v.inRange && 1 ≤ v.month && v.month ≤ 12 && 1 ≤ v.day && v.day ≤ monthLength v.year v.month
    && v.hour ≤ 23 && v.minute ≤ 59 && v.second ≤ 59 && v.milli ≤ 999

/-- The days of a year's months before the given one (R97). -/
def daysBeforeMonth (year : Nat) : Nat → Nat
  | 0 => 0
  | 1 => 0
  | m + 2 => daysBeforeMonth year (m + 1) + monthLength year (m + 1)

/-- The number of days from 2000-01-01 to the date: 365 for each year before it, one more for each leap year among
them, and the days of its own year before it (R97). -/
def ClockValue.dayNumber (v : ClockValue) : Nat :=
  (v.year - 2000) * 365 + (v.year - 2000 + 3) / 4 + daysBeforeMonth v.year v.month + (v.day - 1)

/-- The weekday of the date, 0 for Monday to 6 for Sunday (R97). -/
def ClockValue.weekday (v : ClockValue) : Nat := (5 + v.dayNumber) % 7

/-! Carry upward (R98) -/

/-- The month increases by 1, with its carry (R98, step 6). -/
def ClockValue.nextMonth (v : ClockValue) : ClockValue :=
  if v.month < 12 then { v with month := v.month + 1 } else { v with month := 1, year := v.year + 1 }

/-- The day increases by 1, with its carry (R98, step 5). -/
def ClockValue.nextDay (v : ClockValue) : ClockValue :=
  if v.day < monthLength v.year v.month then { v with day := v.day + 1 }
  else ClockValue.nextMonth { v with day := 1 }

/-- The hour increases by 1, with its carry (R98, step 4). -/
def ClockValue.nextHour (v : ClockValue) : ClockValue :=
  if v.hour < 23 then { v with hour := v.hour + 1 } else ClockValue.nextDay { v with hour := 0 }

/-- The minute increases by 1, with its carry (R98, step 3). -/
def ClockValue.nextMinute (v : ClockValue) : ClockValue :=
  if v.minute < 59 then { v with minute := v.minute + 1 } else ClockValue.nextHour { v with minute := 0 }

/-- The second increases by 1, with its carry (R98, step 2). -/
def ClockValue.nextSecond (v : ClockValue) : ClockValue :=
  if v.second < 59 then { v with second := v.second + 1 } else ClockValue.nextMinute { v with second := 0 }

/-- A positive amount below one second is added to the value, with full carry (R98, R103). -/
def ClockValue.addMillis (v : ClockValue) (a : Nat) : ClockValue :=
  if v.milli + a < 1000 then { v with milli := v.milli + a }
  else ClockValue.nextSecond { v with milli := v.milli + a - 1000 }

/-! Borrow downward (R103) -/

/-- A month below 1 becomes 12 of the year before (R103). -/
def ClockValue.prevMonth (v : ClockValue) : ClockValue :=
  if 1 < v.month then { v with month := v.month - 1 } else { v with month := 12, year := v.year - 1 }

/-- A day below 1 becomes the last day of the month before (R103). -/
def ClockValue.prevDay (v : ClockValue) : ClockValue :=
  if 1 < v.day then { v with day := v.day - 1 }
  else { v.prevMonth with day := monthLength v.prevMonth.year v.prevMonth.month }

/-- An hour below 0 takes 24 from the day (R103). -/
def ClockValue.prevHour (v : ClockValue) : ClockValue :=
  if 0 < v.hour then { v with hour := v.hour - 1 } else ClockValue.prevDay { v with hour := 23 }

/-- A minute below 0 takes 60 from the hour (R103). -/
def ClockValue.prevMinute (v : ClockValue) : ClockValue :=
  if 0 < v.minute then { v with minute := v.minute - 1 } else ClockValue.prevHour { v with minute := 59 }

/-- A second below 0 takes 60 from the minute (R103). -/
def ClockValue.prevSecond (v : ClockValue) : ClockValue :=
  if 0 < v.second then { v with second := v.second - 1 } else ClockValue.prevMinute { v with second := 59 }

/-- An amount below one second is taken from the value, with full borrow (R103). -/
def ClockValue.subMillis (v : ClockValue) (a : Nat) : ClockValue :=
  if a ≤ v.milli then { v with milli := v.milli - a }
  else ClockValue.prevSecond { v with milli := v.milli + 1000 - a }

/-- The value that results from adding a signed amount of milliseconds (R103). -/
def ClockValue.adjusted (v : ClockValue) (amount : Int) : ClockValue :=
  if 0 ≤ amount then v.addMillis amount.toNat else v.subMillis (-amount).toNat

end Sys2Proof.Machine
end

