-- ==== Sys2Proof/Machine/Ops.lean ====
section
/-! DEFINITION. The shared operations over the state: access to the records and the stores, the notice queue's post,
the item pool's counts, the ends of a commit and of a retirement, and a transaction of the configuration port. -/

namespace Sys2Proof.Machine

/-! Access -/

/-- The surface record `n`. -/
def State.surf (s : State) (n : SurfaceId) : Surface := s.surfaces[n]

/-- The state with the surface record `n` replaced. -/
def State.setSurf (s : State) (n : SurfaceId) (r : Surface) : State :=
  { s with surfaces := s.surfaces.set n r }

/-- The string slot `k`. -/
def State.slot (s : State) (k : SlotId) : StringSlot := s.slots[k]

/-- The state with the string slot `k` replaced. -/
def State.setSlot (s : State) (k : SlotId) (v : StringSlot) : State :=
  { s with slots := s.slots.set k v }

/-- A glyph page. -/
def State.page (s : State) : Page → GlyphPage
  | .a => s.pageA
  | .b => s.pageB

/-- The state with a glyph page replaced. -/
def State.setPage (s : State) (p : Page) (g : GlyphPage) : State :=
  match p with
  | .a => { s with pageA := g }
  | .b => { s with pageB := g }

/-- The eight surface numbers in ascending order. -/
def surfaceIds : List SurfaceId := [0, 1, 2, 3, 4, 5, 6, 7]

/-- The four buffer numbers in ascending order. -/
def bufferIds : List BufferId := [0, 1, 2, 3]

/-- The surface is LIVE or RETIRING: it takes part in the comparison of writes and is tracked and stamped (R6). -/
def Surface.drawing (r : Surface) : Bool := r.state == .live || r.state == .retiring

/-- Bytes per pixel (R4). -/
def PixelFormat.bpp : PixelFormat → Nat
  | .y8 => 1
  | .yuyv => 2
  | .rgb565 => 2
  | .xrgb8888 => 4

/-- The bytes of one buffer (R6). -/
def SurfaceDef.bufferSize (d : SurfaceDef) : Nat := d.pitch * d.height

/-- The first byte of buffer `k` (R6). -/
def SurfaceDef.bufferStart (d : SurfaceDef) (k : Nat) : Nat := d.base + k * d.stride

/-! The notice queue (R161, R162) -/

/-- The notice is a LOST notice. -/
def Notice.isLost : Notice → Bool
  | .lost _ => true
  | .frame _ _ _ => false
  | .committed _ _ => false
  | .commitForced _ _ => false
  | .retired _ _ _ => false
  | .drained _ => false
  | .writeFault _ _ _ _ => false
  | .malformed _ _ _ => false
  | .clockEnd => false

/-- A LOST notice counts one more dropped notice, up to 65535; any other notice stays (R162). -/
def Notice.countDrop : Notice → Notice
  | .lost d => .lost (min (d + 1) Config.droppedMax)
  | n => n

/-- The queue after a post: appended, dropped in favour of a LOST notice, or counted in the one present (R161). -/
def postTo (q : List Notice) (n : Notice) : List Notice :=
  if q.any Notice.isLost then q.map Notice.countDrop
  else if q.length < Config.noticeRoom then q ++ [n]
  else q ++ [.lost 1]

/-- A block posts a notice (R161). -/
def State.post (s : State) (n : Notice) : State := { s with notices := postTo s.notices n }

/-! The item pool (R38 to R44) -/

/-- The item is a TEXT item that names the slot (R44). -/
def Item.namesSlot (k : SlotId) : Item → Bool
  | .text t => t.slot == k
  | .box _ _ => false
  | .redact _ => false

/-- The item is a REDACT item. -/
def Item.isRedact : Item → Bool
  | .redact _ => true
  | .text _ => false
  | .box _ _ => false

/-- How many items of a list name the slot (R44). -/
def namesIn (k : SlotId) (items : List Item) : Nat := items.countP (Item.namesSlot k)

/-- Records are allocated for the items: the free count falls and each slot's reference count rises by the number of
them that name it (R39, R44). -/
def State.allocItems (s : State) (items : List Item) : State :=
  { s with
    freeCount := s.freeCount - items.length
    slots := Vector.ofFn fun k => { s.slot k with refCount := (s.slot k).refCount + namesIn k items } }

/-- The records of the items are freed: the free count rises and each slot's reference count falls by the number of
them that named it (R40, R44). -/
def State.freeItems (s : State) (items : List Item) : State :=
  { s with
    freeCount := s.freeCount + items.length
    slots := Vector.ofFn fun k => { s.slot k with refCount := (s.slot k).refCount - namesIn k items } }

/-- A record takes new contents in place: only the reference counts move (R44, R50). -/
def State.swapItem (s : State) (old new : Item) : State :=
  { s with
    slots := Vector.ofFn fun k =>
      { s.slot k with refCount := (s.slot k).refCount - namesIn k [old] + namesIn k [new] } }

/-! The ends of a commit and of a retirement -/

/-- The surface record after a commit has been applied (R63, steps 2 to 6). -/
def Surface.committed (r : Surface) : Surface :=
  { r with
    active := r.staged
    staged := []
    activePage := r.stagedPage
    commitPending := false
    deadlineRemaining := none
    lastCommitFrame := some r.frame.number }

/-- The commit of a surface is applied: the old active items are freed and the staged configuration takes their
place (R63, steps 1 to 6). -/
def State.applyCommit (s : State) (n : SurfaceId) : State :=
  (s.freeItems (s.surf n).active).setSurf n (s.surf n).committed

/-- The surface record after its retirement has completed (R14). -/
def Surface.retired (r : Surface) : Surface :=
  { r with
    state := .defined
    active := []
    activePage := none
    deadlineRemaining := none }

/-- The retirement of a surface completes, and RETIRED is posted with the frame number as it stands (R14, R15). -/
def State.completeRetirement (s : State) (n : SurfaceId) (forced : Bool) : State :=
  ((s.freeItems (s.surf n).active).setSurf n (s.surf n).retired).post
    (.retired n (s.surf n).frame.number forced)

/-- The expiry of a commit's deadline (R66): a LIVE surface with a commit pending whose deadline remaining has
reached 0 has its commit forced. On any other surface nothing expires. -/
def State.forceCommit (s : State) (n : SurfaceId) : State :=
  let r := s.surf n
  if r.state = .live ∧ r.commitPending = true ∧ r.deadlineRemaining = some 0 then
    (s.applyCommit n).post (.commitForced n r.frame.number)
  else s

/-- The expiry of a retirement's deadline (R15): a RETIRING surface whose deadline remaining has reached 0 has its
retirement forced. On any other surface nothing expires. -/
def State.forceRetirement (s : State) (n : SurfaceId) : State :=
  if (s.surf n).state = .retiring ∧ (s.surf n).deadlineRemaining = some 0 then s.completeRetirement n true
  else s

/-! A transaction of the configuration port (R170 to R175, R180) -/

/-- The encoding of a result code (R179). -/
def ResultCode.byte : ResultCode → Byte
  | .ok => 0x00
  | .badFrame => 0x01
  | .badCommand => 0x02
  | .badArg => 0x03
  | .state => 0x04
  | .locked => 0x05
  | .busy => 0x06
  | .noItem => 0x07
  | .listFull => 0x08
  | .inUse => 0x09
  | .overlap => 0x0A
  | .tooLate => 0x0B
  | .empty => 0x0C

/-- The result frame of a last-result record (R180). -/
def resultFrame (r : LastResult) : List Byte :=
  let head := r.code.byte :: r.seq :: r.command :: BitVec.ofNat 8 r.payload.length :: r.payload
  head ++ [crc head]

/-- The bits that CFG_MISO carries while `n` bits come in: the result frame of the record from its first byte, most
significant bit first, then those of 00H bytes (R170). -/
def shiftedOut (r : LastResult) (n : Nat) : List Bool :=
  (bitsOfBytes (resultFrame r) ++ List.replicate n false).take n

/-- A transaction begins at a fall of CFG_CSN with an empty receive frame, and its complete bytes are collected
there (R170). -/
def State.receive (s : State) (bytes : List Byte) : State :=
  { s with rxFrame := bytes, linkAbandoned := false }

/-- The transaction ends: as many bits as came in, those of the incomplete byte `tail` too, have gone out from the
record as it stood; the bits of `tail` are discarded, and the record is replaced (R170, R175). -/
def State.conclude (s : State) (tail : List Bool) (r : LastResult) : State :=
  { s with misoOut := shiftedOut s.record (8 * s.rxFrame.length + tail.length), record := r, rxFrame := [] }

/-- The result of a command: its code and its payload (R175). -/
structure Reply where
  code    : ResultCode
  payload : List Byte
  deriving DecidableEq, Repr

/-- OK without a payload. -/
def Reply.done : Reply := ⟨.ok, []⟩

/-- A result code without a payload. -/
def Reply.bare (c : ResultCode) : Reply := ⟨c, []⟩

/-- A good frame of a catalogue command is taken at the end of its transaction: the payload length is checked, then
the command is executed by the rule that owns it, and its result becomes the record (R174, R175). While RESETN is
asserted no transaction is taken (R178). -/
def runCommand (number : Byte) (f : CommandFrame) (lengthOk : Bool) (body : State → Reply × State)
    (s : State) : Host.Outcome State Fault Refusal :=
  if s.resetAsserted then .next s
  else
    let got := s.receive (frameBytes number f)
    let out := if lengthOk then body got else (.bare .badArg, got)
    .next (out.2.conclude f.tail ⟨out.1.code, f.seq, number, out.1.payload⟩)

end Sys2Proof.Machine
end

