-- ==== Sys2Proof/Machine/Operands.lean ====
section
/-! DEFINITION. The operand forms: how the parts of a command payload are read and the parts of a result payload are
written (R179, R181 to R184), with the range checks of the rules that own the values. A part out of range reads as
`none`, which its rule turns into BAD_ARG. -/

namespace Sys2Proof.Machine

/-! Reading a payload -/

/-- Payload byte `i`. -/
def arg (f : CommandFrame) (i : Nat) : Byte := f.payload.getD i 0

/-- The `k` payload bytes from `i` on. -/
def argBytes (f : CommandFrame) (i k : Nat) : List Byte := (f.payload.drop i).take k

/-- The number in the `k` bytes from `i` on. -/
def numAt (bytes : List Byte) (i k : Nat) : Nat := beNat ((bytes.drop i).take k)

/-- A surface number (R2). -/
def surfaceOf (b : Byte) : Option SurfaceId :=
  if h : b.toNat < 8 then some ⟨b.toNat, h⟩ else none

/-- A string slot number (R92). -/
def slotOf (b : Byte) : Option SlotId :=
  if h : b.toNat < 64 then some ⟨b.toNat, h⟩ else none

/-- A page: A is 00H and B is 01H (R179). -/
def pageOf (b : Byte) : Option Page :=
  if b = 0x00 then some .a else if b = 0x01 then some .b else none

/-- An on or off value: on is 01H and off is 00H (R179). -/
def switchOf (b : Byte) : Option Bool :=
  if b = 0x00 then some false else if b = 0x01 then some true else none

/-- A pixel format (R179). -/
def formatOf (b : Byte) : Option PixelFormat :=
  if b = 0x00 then some .y8
  else if b = 0x01 then some .yuyv
  else if b = 0x02 then some .rgb565
  else if b = 0x03 then some .xrgb8888
  else none

/-- A blend (R179). -/
def blendOf (b : Byte) : Option Blend :=
  if b = 0x00 then some .opaqueBlend else if b = 0x01 then some .halfBlend else none

/-- A list of a surface, as READ ITEM selects it (R57). -/
inductive ListSelector where
  | staged
  | active
  deriving DecidableEq, Repr

/-- A list selector: STAGED is 00H and ACTIVE is 01H (R179). -/
def selectorOf (b : Byte) : Option ListSelector :=
  if b = 0x00 then some .staged else if b = 0x01 then some .active else none

/-- The code of a glyph cell, 0 to 127 (R83). -/
def cellOf (b : Byte) : Option (Fin 128) :=
  if h : b.toNat < 128 then some ⟨b.toNat, h⟩ else none

/-- What READ GLYPH reads (R85). -/
inductive GlyphSelector where
  | cell (code : Fin 128)
  | header
  deriving DecidableEq, Repr

/-- A READ GLYPH selector: a code 00H to 7FH, or HEADER, FFH (R179). -/
def glyphSelectorOf (b : Byte) : Option GlyphSelector :=
  if b = 0xFF then some .header else (cellOf b).map .cell

/-- A colour of four bytes (R181). -/
def colourAt (bytes : List Byte) (i : Nat) : Colour := BitVec.ofNat 32 (numAt bytes i 4)

/-- The rectangle of a BOX or REDACT description, its ranges checked (R42, R43, R181). -/
def rectOf (bytes : List Byte) : Option RectItem :=
  let x := numAt bytes 1 2
  let y := numAt bytes 3 2
  let w := numAt bytes 5 2
  let h := numAt bytes 7 2
  if x ≤ 4095 ∧ y ≤ 4095 ∧ 1 ≤ w ∧ w ≤ 4096 ∧ 1 ≤ h ∧ h ≤ 4096 then
    some ⟨x, y, w, h, colourAt bytes 14⟩
  else none

/-- A TEXT description, its ranges checked; its slot must be present (R42, R43, R181). -/
def textOf (bytes : List Byte) : Option TextItem :=
  let x := numAt bytes 1 2
  let y := numAt bytes 3 2
  let sx := numAt bytes 11 1
  let sy := numAt bytes 12 1
  let gap := numAt bytes 13 1
  if x ≤ 4095 ∧ y ≤ 4095 ∧ bytes.getD 9 0 = 0x01 ∧ 1 ≤ sx ∧ sx ≤ 4 ∧ 1 ≤ sy ∧ sy ≤ 4 ∧ gap ≤ 7 then
    match slotOf (bytes.getD 10 0), blendOf (bytes.getD 26 0) with
    | some k, some bl => some ⟨x, y, k, sx, sy, gap, colourAt bytes 14, colourAt bytes 18, colourAt bytes 22, bl⟩
    | _, _ => none
  else none

/-- An item description: the values that belong to the kind are checked and kept, the others are neither (R43). -/
def itemOf (bytes : List Byte) : Option Item :=
  let kind := bytes.getD 0 0
  if kind = 0x01 then (textOf bytes).map .text
  else if kind = 0x02 then
    match rectOf bytes, blendOf (bytes.getD 26 0) with
    | some r, some bl => some (.box r bl)
    | _, _ => none
  else if kind = 0x03 then (rectOf bytes).map .redact
  else none

/-- Each argument of DEFINE SURFACE lies in its own range (R3); the format and the switch are legal by their types. -/
def SurfaceDef.rangesOk (d : SurfaceDef) : Bool :=
  d.base ≤ 0xFFFFFFFC0 && d.base % 64 == 0
    && 64 ≤ d.pitch && d.pitch ≤ 65536 && d.pitch % 64 == 0
    && 16 ≤ d.width && d.width ≤ 4096
    && 16 ≤ d.height && d.height ≤ 4096
    && 1 ≤ d.bufferCount && d.bufferCount ≤ 4
    && (d.bufferCount == 1 || (4096 ≤ d.stride && d.stride ≤ 268435456 && d.stride % 4096 == 0))
    && d.rewindTolerance ≤ 255 && d.deadline ≤ 65535

/-- The arguments of DEFINE SURFACE agree with each other (R4). -/
def SurfaceDef.consistent (d : SurfaceDef) : Bool :=
  d.width * d.format.bpp ≤ d.pitch
    && (d.format != .yuyv || d.width % 2 == 0)
    && (d.bufferCount == 1 || d.bufferSize ≤ d.stride)
    && d.base + (d.bufferCount - 1) * d.stride + d.bufferSize ≤ 0x1000000000

/-- The record of a one-buffer surface takes pitch × height as its buffer stride (R4). -/
def SurfaceDef.withOwnStride (d : SurfaceDef) : SurfaceDef :=
  if d.bufferCount = 1 then { d with stride := d.bufferSize } else d

/-- A surface definition of 23 bytes, with the checks of R3 and R4 (R181). -/
def surfaceDefOf (bytes : List Byte) : Option SurfaceDef :=
  match formatOf (bytes.getD 13 0), switchOf (bytes.getD 22 0) with
  | some fmt, some fn =>
    let d : SurfaceDef := SurfaceDef.withOwnStride
      { base := numAt bytes 0 5
        pitch := numAt bytes 5 4
        width := numAt bytes 9 2
        height := numAt bytes 11 2
        format := fmt
        bufferCount := numAt bytes 14 1
        stride := numAt bytes 15 4
        rewindTolerance := numAt bytes 19 1
        deadline := numAt bytes 20 2
        frameNotices := fn }
    if d.rangesOk && d.consistent then some d else none
  | _, _ => none

/-- A clock value of 9 bytes, which must be a valid date and time (R101, R179). -/
def clockOf (bytes : List Byte) : Option ClockValue :=
  let v : ClockValue :=
    { year := numAt bytes 0 2
      month := numAt bytes 2 1
      day := numAt bytes 3 1
      hour := numAt bytes 4 1
      minute := numAt bytes 5 1
      second := numAt bytes 6 1
      milli := numAt bytes 7 2 }
  if v.valid then some v else none

/-- The signed amount of ADJUST CLOCK, two bytes in two's complement (R179), from −999 to +999 (R103). -/
def amountOf (bytes : List Byte) : Option Int :=
  let a := (BitVec.ofNat 16 (numAt bytes 0 2)).toInt
  if -999 ≤ a ∧ a ≤ 999 then some a else none

/-- The four values of WRITE PAGE HEADER (R80, R84). -/
def headerOf (bytes : List Byte) : Option PageHeader :=
  let h : PageHeader := ⟨numAt bytes 0 1, numAt bytes 1 1, numAt bytes 2 1, numAt bytes 3 1⟩
  if h.digitBase ≤ 118 ∧ h.amGlyph ≤ 127 ∧ h.pmGlyph ≤ 127 ∧ h.weekdayBase ≤ 121 then some h else none

/-- The shade of a number in two places (Conventions, "Glyphs"). -/
def shadeOf (v : BitVec 2) : Shade :=
  if v = 0 then .clear else if v = 1 then .ink else if v = 2 then .edge else .shade

/-- The number of a shade (Conventions, "Glyphs"). -/
def Shade.number : Shade → BitVec 2
  | .clear => 0
  | .ink => 1
  | .edge => 2
  | .shade => 3

/-- The four shades of a byte of glyph cell data, the lowest column in the most significant places (R184). -/
def shadesOfByte (b : Byte) : List Shade :=
  [shadeOf (b.extractLsb' 6 2), shadeOf (b.extractLsb' 4 2), shadeOf (b.extractLsb' 2 2), shadeOf (b.extractLsb' 0 2)]

/-- A glyph cell from its 60 bytes: byte 3r + i holds columns 4i to 4i + 3 of row r, so the shades stand in the
order of the cell's places (R184). -/
def cellOfBytes (bytes : List Byte) : GlyphCell :=
  let shades := bytes.flatMap shadesOfByte
  Vector.ofFn fun i => shades.getD i.val .clear

/-- The byte of four shades (R184). -/
def byteOfShades (s0 s1 s2 s3 : Shade) : Byte := s0.number ++ s1.number ++ s2.number ++ s3.number

/-- The bytes of a run of shades, four to a byte (R184). -/
def bytesOfShades : List Shade → List Byte
  | s0 :: s1 :: s2 :: s3 :: rest => byteOfShades s0 s1 s2 s3 :: bytesOfShades rest
  | _ => []

/-- The 60 bytes of a glyph cell (R184). -/
def cellBytes (c : GlyphCell) : List Byte := bytesOfShades c.toList

/-! Writing a payload -/

/-- One byte of a number below 256. -/
def byteOf (n : Nat) : Byte := BitVec.ofNat 8 n

/-- Yes, on and RUNNING are 01H, and no, off and STOPPED are 00H (R179). -/
def flagByte (b : Bool) : Byte := if b then 0x01 else 0x00

/-- A page (R179). -/
def Page.byte : Page → Byte
  | .a => 0x00
  | .b => 0x01

/-- A field that may be absent: a presence byte and `k` bytes, which are 00H when it is absent (R179). -/
def optBytes (k : Nat) : Option Nat → List Byte
  | none => 0x00 :: List.replicate k 0x00
  | some n => 0x01 :: beBytes k n

/-- A page that may be absent (R179). -/
def optPage (p : Option Page) : List Byte := optBytes 1 (p.map fun p => p.byte.toNat)

/-- A frame number or sequence number that may be absent (R179). -/
def optWord (n : Option (BitVec 32)) : List Byte := optBytes 4 (n.map BitVec.toNat)

/-- The encoding of a pixel format (R179). -/
def PixelFormat.byte : PixelFormat → Byte
  | .y8 => 0x00
  | .yuyv => 0x01
  | .rgb565 => 0x02
  | .xrgb8888 => 0x03

/-- The encoding of a surface state (R179). -/
def SurfaceState.byte : SurfaceState → Byte
  | .vacant => 0x00
  | .defined => 0x01
  | .live => 0x02
  | .retiring => 0x03

/-- The encoding of a blend (R179). -/
def Blend.byte : Blend → Byte
  | .opaqueBlend => 0x00
  | .halfBlend => 0x01

/-- A clock value in 9 bytes (R179). -/
def clockBytes (v : ClockValue) : List Byte :=
  beBytes 2 v.year ++ [byteOf v.month, byteOf v.day, byteOf v.hour, byteOf v.minute, byteOf v.second]
    ++ beBytes 2 v.milli

/-- A clock value that may be absent (R179). -/
def optClock : Option ClockValue → List Byte
  | none => 0x00 :: List.replicate 9 0x00
  | some v => 0x01 :: clockBytes v

/-- A surface definition in 23 bytes (R181). -/
def surfaceDefBytes (d : SurfaceDef) : List Byte :=
  beBytes 5 d.base ++ beBytes 4 d.pitch ++ beBytes 2 d.width ++ beBytes 2 d.height
    ++ [d.format.byte, byteOf d.bufferCount] ++ beBytes 4 d.stride ++ [byteOf d.rewindTolerance]
    ++ beBytes 2 d.deadline ++ [flagByte d.frameNotices]

/-- A colour in 4 bytes (R181). -/
def colourBytes (c : Colour) : List Byte := beBytes 4 c.toNat

/-- An item description in 27 bytes, as READ ITEM returns it: the bytes of fields that the kind does not hold are
00H (R181). -/
def itemBytes : Item → List Byte
  | .text t =>
    [0x01] ++ beBytes 2 t.x ++ beBytes 2 t.y ++ beBytes 2 0 ++ beBytes 2 0 ++ [0x01, byteOf t.slot.val]
      ++ [byteOf t.scaleX, byteOf t.scaleY, byteOf t.spacing]
      ++ colourBytes t.ink ++ colourBytes t.edge ++ colourBytes t.shade ++ [t.blend.byte]
  | .box r bl =>
    [0x02] ++ beBytes 2 r.x ++ beBytes 2 r.y ++ beBytes 2 r.w ++ beBytes 2 r.h ++ List.replicate 5 0x00
      ++ colourBytes r.ink ++ List.replicate 8 0x00 ++ [bl.byte]
  | .redact r =>
    [0x03] ++ beBytes 2 r.x ++ beBytes 2 r.y ++ beBytes 2 r.w ++ beBytes 2 r.h ++ List.replicate 5 0x00
      ++ colourBytes r.ink ++ List.replicate 8 0x00 ++ [0x00]

/-- The OK payload of READ SURFACE: the state, and unless it is VACANT the rest of the record, 57 bytes in all
(R17, R182). -/
def surfaceBytes (r : Surface) : List Byte :=
  r.state.byte ::
    (if r.state = .vacant then []
     else match r.defn with
     | none => []
     | some d =>
       surfaceDefBytes d
         ++ optBytes 1 (r.frame.currentBuffer.map Fin.val) ++ beBytes 2 r.frame.highWater
         ++ beBytes 4 r.frame.number.toNat ++ optClock r.frame.time
         ++ [flagByte r.commitPending] ++ optBytes 2 r.deadlineRemaining ++ optWord r.lastCommitFrame
         ++ [byteOf r.staged.length, byteOf r.active.length] ++ optPage r.stagedPage ++ optPage r.activePage)

/-- A surface number that may be absent and a frame number that may be absent, as a notice carries them (R183). -/
def ownerBytes : Option EntryOwner → List Byte
  | none => optBytes 1 none ++ optBytes 4 none
  | some o => optBytes 1 (some o.surface.val) ++ optBytes 4 (some o.frame.toNat)

/-- A notice record without its first byte: the kind, the surface, the frame number and the kind's fields (R183). -/
def noticeBytes : Notice → List Byte
  | .frame n k b => [0x01] ++ ownerBytes (some ⟨n, k⟩) ++ [byteOf b.val]
  | .committed n k => [0x02] ++ ownerBytes (some ⟨n, k⟩)
  | .commitForced n k => [0x03] ++ ownerBytes (some ⟨n, k⟩)
  | .retired n k forced => [0x04] ++ ownerBytes (some ⟨n, k⟩) ++ [flagByte forced]
  | .drained id => [0x05] ++ ownerBytes none ++ [id]
  | .writeFault o a l t => [0x06] ++ ownerBytes o ++ beBytes 5 a.toNat ++ beBytes 2 l ++ [byteOf t.val]
  | .malformed a l t => [0x07] ++ ownerBytes none ++ beBytes 5 a.toNat ++ beBytes 2 l ++ [byteOf t.val]
  | .clockEnd => [0x08] ++ ownerBytes none
  | .lost d => [0x09] ++ ownerBytes none ++ beBytes 2 d

end Sys2Proof.Machine
end

