-- ==== Sys2Proof/Machine/Flags.lean ====
section
/-! DEFINITION. The status conditions of the block, each computed from the state that holds it: ATTN, a page in use,
a REDACT item on a list, the values of READ STATUS. -/

namespace Sys2Proof.Machine

/-- ATTN is asserted while the notice queue holds a notice (R166). -/
def State.attn (s : State) : Bool := !s.notices.isEmpty

/-- A surface holds a page in use: as the active page of a LIVE or RETIRING surface, or as the staged page of a
surface with a commit pending (R82). -/
def Surface.usesPage (r : Surface) (p : Page) : Bool :=
  (r.drawing && r.activePage == some p) || (r.commitPending && r.stagedPage == some p)

/-- A glyph page is in use (R82). -/
def State.pageInUse (s : State) (p : Page) : Bool :=
  surfaceIds.any fun n => (s.surf n).usesPage p

/-- A surface that is not VACANT holds a REDACT item on its staged or active list (R153). -/
def Surface.holdsRedact (r : Surface) : Bool :=
  r.state != .vacant && (r.staged.any Item.isRedact || r.active.any Item.isRedact)

/-- Some surface that is not VACANT holds a REDACT item (R153). -/
def State.holdsRedact (s : State) : Bool :=
  surfaceIds.any fun n => (s.surf n).holdsRedact

/-- The clock is RUNNING, as READ CLOCK and READ STATUS report it (R96, R154). -/
def State.clockRunning (s : State) : Bool := s.clockState == .running

/-- The OK payload of READ STATUS (R154, R182). -/
def State.statusBytes (s : State) : List Byte :=
  [byteOf s.freeCount, flagByte s.bypass, flagByte s.clockRunning, byteOf s.notices.length,
    byteOf s.queue.length, byteOf s.held.length, flagByte s.drain.isSome]

/-- The OK payload of READ CLOCK (R104, R182). -/
def State.clockStatusBytes (s : State) : List Byte :=
  clockBytes s.clock ++ [byteOf s.clock.weekday, flagByte s.clockRunning]

/-- The address ranges of two definitions overlap: some buffer of one and some buffer of the other each begin below
the end of the other (R11). -/
def SurfaceDef.overlaps (d e : SurfaceDef) : Bool :=
  (List.range d.bufferCount).any fun i => (List.range e.bufferCount).any fun j =>
    decide (d.bufferStart i < e.bufferStart j + e.bufferSize)
      && decide (e.bufferStart j < d.bufferStart i + d.bufferSize)

/-- The surface is LIVE or RETIRING and its address range overlaps the definition (R11). -/
def Surface.blocks (r : Surface) (d : SurfaceDef) : Bool :=
  r.drawing && (match r.defn with
    | none => false
    | some e => d.overlaps e)

/-- The lowest-numbered other surface in LIVE or RETIRING whose address range overlaps the definition (R10, R11). -/
def State.overlapping (s : State) (n : SurfaceId) (d : SurfaceDef) : Option SurfaceId :=
  surfaceIds.find? fun m => m != n && (s.surf m).blocks d

end Sys2Proof.Machine
end

