-- ==== Sys2Proof/Machine/ClockCommands.lean ====
section
/-! DEFINITION. The clock commands (chapter 6). -/

namespace Sys2Proof.Machine

/-- SET CLOCK: a valid value is taken and the clock becomes RUNNING (R101). -/
def setClock (f : CommandFrame) (s : State) : Reply × State :=
  match clockOf (argBytes f 0 9) with
  | none => (.bare .badArg, s)
  | some v => (.done, { s with clock := v, clockState := .running })

/-- SET CLOCK (R101). -/
def execSetClock (f : CommandFrame) (s : State) : Host.Outcome State Fault Refusal :=
  runCommand 0x50 f (f.payload.length == 9) (setClock f) s

/-- HOLD CLOCK: the clock becomes STOPPED and keeps its value (R102). -/
def holdClock (s : State) : Reply × State := (.done, { s with clockState := .stopped })

/-- HOLD CLOCK (R102). -/
def execHoldClock (f : CommandFrame) (s : State) : Host.Outcome State Fault Refusal :=
  runCommand 0x51 f (f.payload.length == 0) holdClock s

/-- ADJUST CLOCK: a result within the range is taken, and the state stays as it was (R103). -/
def adjustClock (f : CommandFrame) (s : State) : Reply × State :=
  match amountOf (argBytes f 0 2) with
  | none => (.bare .badArg, s)
  | some a =>
    if (s.clock.adjusted a).inRange then (.done, { s with clock := s.clock.adjusted a })
    else (.bare .badArg, s)

/-- ADJUST CLOCK (R103). -/
def execAdjustClock (f : CommandFrame) (s : State) : Host.Outcome State Fault Refusal :=
  runCommand 0x52 f (f.payload.length == 2) (adjustClock f) s

/-- READ CLOCK (R104). -/
def readClock (s : State) : Reply × State := (⟨.ok, s.clockStatusBytes⟩, s)

/-- READ CLOCK (R104). -/
def execReadClock (f : CommandFrame) (s : State) : Host.Outcome State Fault Refusal :=
  runCommand 0x53 f (f.payload.length == 0) readClock s

end Sys2Proof.Machine
end

