-- ==== Sys2Proof/Machine/SurfaceCommands.lean ====
section
/-! DEFINITION. The surface commands (chapter 1): DEFINE, ACTIVATE, RETIRE, RELEASE and READ SURFACE. -/

namespace Sys2Proof.Machine

/-- A command that names a surface in its first payload byte: a number above 7 gives BAD_ARG before any other check
of the owning rule (R2). -/
def onSurface (f : CommandFrame) (body : SurfaceId → State → Reply × State) (s : State) : Reply × State :=
  match surfaceOf (arg f 0) with
  | none => (.bare .badArg, s)
  | some n => body n s

/-- The record of a VACANT surface that has just been defined (R5). -/
def Surface.newlyDefined (d : SurfaceDef) : Surface :=
  { Surface.vacant with state := .defined, defn := some d, stagedPage := some .a }

/-- DEFINE SURFACE on surface `n` (R3, R4, R5). -/
def defineSurface (f : CommandFrame) (n : SurfaceId) (s : State) : Reply × State :=
  match (s.surf n).state with
  | .live => (.bare .state, s)
  | .retiring => (.bare .state, s)
  | .vacant =>
    match surfaceDefOf (argBytes f 1 23) with
    | none => (.bare .badArg, s)
    | some d => (.done, s.setSurf n (.newlyDefined d))
  | .defined =>
    match surfaceDefOf (argBytes f 1 23) with
    | none => (.bare .badArg, s)
    | some d => (.done, s.setSurf n { s.surf n with defn := some d })

/-- DEFINE SURFACE (R5). -/
def execDefineSurface (f : CommandFrame) (s : State) : Host.Outcome State Fault Refusal :=
  runCommand 0x10 f (f.payload.length == 24) (onSurface f (defineSurface f)) s

/-- The record of a surface that has just been activated (R12). -/
def Surface.activated (r : Surface) : Surface :=
  { r with
    state := .live
    active := r.staged
    staged := []
    activePage := r.stagedPage
    commitPending := false
    deadlineRemaining := none
    lastCommitFrame := none
    frame := .cleared }

/-- The surface that blocks the activation of surface `n`, if there is one (R10, R11). -/
def State.blocker (s : State) (n : SurfaceId) : Option SurfaceId :=
  (s.surf n).defn.bind fun d => s.overlapping n d

/-- ACTIVATE SURFACE on surface `n` (R10, R11, R12). -/
def activateSurface (n : SurfaceId) (s : State) : Reply × State :=
  if (s.surf n).state = .defined then
    match s.blocker n with
    | some m => (⟨.overlap, [byteOf m.val]⟩, s)
    | none => (.done, s.setSurf n (s.surf n).activated)
  else (.bare .state, s)

/-- ACTIVATE SURFACE (R10). -/
def execActivateSurface (f : CommandFrame) (s : State) : Host.Outcome State Fault Refusal :=
  runCommand 0x11 f (f.payload.length == 1) (onSurface f activateSurface) s

/-- A deadline is armed from the deadline field: its value when it is 1 to 65535, absent when it is 0 (R13, R60). -/
def Surface.armedDeadline (r : Surface) : Option Nat :=
  r.defn.bind fun d => if d.deadline = 0 then none else some d.deadline

/-- The record of a surface whose retirement has been asked for (R13). -/
def Surface.beginRetirement (r : Surface) : Surface :=
  { r with state := .retiring, commitPending := false, deadlineRemaining := r.armedDeadline }

/-- RETIRE SURFACE on surface `n` (R13). -/
def retireSurface (n : SurfaceId) (s : State) : Reply × State :=
  if (s.surf n).state = .live then (.done, s.setSurf n (s.surf n).beginRetirement)
  else (.bare .state, s)

/-- RETIRE SURFACE (R13). -/
def execRetireSurface (f : CommandFrame) (s : State) : Host.Outcome State Fault Refusal :=
  runCommand 0x12 f (f.payload.length == 1) (onSurface f retireSurface) s

/-- RELEASE SURFACE on surface `n` (R16). -/
def releaseSurface (n : SurfaceId) (s : State) : Reply × State :=
  if (s.surf n).state = .defined then (.done, (s.freeItems (s.surf n).staged).setSurf n .vacant)
  else (.bare .state, s)

/-- RELEASE SURFACE (R16). -/
def execReleaseSurface (f : CommandFrame) (s : State) : Host.Outcome State Fault Refusal :=
  runCommand 0x13 f (f.payload.length == 1) (onSurface f releaseSurface) s

/-- READ SURFACE on surface `n` (R17). -/
def readSurface (n : SurfaceId) (s : State) : Reply × State := (⟨.ok, surfaceBytes (s.surf n)⟩, s)

/-- READ SURFACE (R17). -/
def execReadSurface (f : CommandFrame) (s : State) : Host.Outcome State Fault Refusal :=
  runCommand 0x14 f (f.payload.length == 1) (onSurface f readSurface) s

end Sys2Proof.Machine
end

