-- ==== Sys2Proof/Machine/CommitCommands.lean ====
section
/-! DEFINITION. COMMIT and CANCEL COMMIT (chapter 4). -/

namespace Sys2Proof.Machine

/-- The OK reply of COMMIT: the deadline remaining after the command (R60, R61). -/
def commitReply (r : Surface) : Reply := ⟨.ok, optBytes 2 r.deadlineRemaining⟩

/-- The record of a surface on which a commit has just been taken (R60). -/
def Surface.withCommit (r : Surface) : Surface :=
  { r with commitPending := true, deadlineRemaining := r.armedDeadline }

/-- COMMIT on surface `n` (R60, R61). -/
def commit (n : SurfaceId) (s : State) : Reply × State :=
  let r := s.surf n
  if r.state = .live then
    if r.commitPending then (commitReply r, s)
    else (commitReply r.withCommit, s.setSurf n r.withCommit)
  else (.bare .state, s)

/-- COMMIT (R60). -/
def execCommit (f : CommandFrame) (s : State) : Host.Outcome State Fault Refusal :=
  runCommand 0x30 f (f.payload.length == 1) (onSurface f commit) s

/-- CANCEL COMMIT on surface `n` (R68). -/
def cancelCommit (n : SurfaceId) (s : State) : Reply × State :=
  let r := s.surf n
  if r.state = .live then
    if r.commitPending then (.done, s.setSurf n { r with commitPending := false, deadlineRemaining := none })
    else (⟨.tooLate, optWord r.lastCommitFrame⟩, s)
  else (.bare .state, s)

/-- CANCEL COMMIT (R68). -/
def execCancelCommit (f : CommandFrame) (s : State) : Host.Outcome State Fault Refusal :=
  runCommand 0x31 f (f.payload.length == 1) (onSurface f cancelCommit) s

end Sys2Proof.Machine
end

