-- ==== Sys2Proof/Machine/ItemCommands.lean ====
section
/-! DEFINITION. The staging commands and READ ITEM (chapter 3). -/

namespace Sys2Proof.Machine

/-- The refusal of a staging command by the state of its surface and a pending commit (R47): STATE on a VACANT or
RETIRING surface, LOCKED while a commit is pending. -/
def Surface.stagingRefusal (r : Surface) : Option ResultCode :=
  match r.state with
  | .vacant => some .state
  | .retiring => some .state
  | .defined => none
  | .live => if r.commitPending then some .locked else none

/-- A staging command on surface `n`, past the checks of R47 (R48, steps 1 to 3). -/
def onStaging (f : CommandFrame) (body : SurfaceId → State → Reply × State) (s : State) : Reply × State :=
  onSurface f (fun n s =>
    match (s.surf n).stagingRefusal with
    | some c => (.bare c, s)
    | none => body n s) s

/-- The state with the staged list of surface `n` replaced. -/
def State.setStaged (s : State) (n : SurfaceId) (items : List Item) : State :=
  s.setSurf n { s.surf n with staged := items }

/-- ADD ITEM on surface `n` (R49; the order of the checks is R48's). -/
def addItem (f : CommandFrame) (n : SurfaceId) (s : State) : Reply × State :=
  match itemOf (argBytes f 1 27) with
  | none => (.bare .badArg, s)
  | some it =>
    if it.isRedact && s.bypass then (.bare .locked, s)
    else if Config.listCapacity ≤ (s.surf n).staged.length then (.bare .listFull, s)
    else if s.freeCount = 0 then (.bare .noItem, s)
    else
      let t := (s.allocItems [it]).setStaged n ((s.surf n).staged ++ [it])
      (⟨.ok, [byteOf (s.surf n).staged.length, byteOf t.freeCount]⟩, t)

/-- ADD ITEM (R49). -/
def execAddItem (f : CommandFrame) (s : State) : Host.Outcome State Fault Refusal :=
  runCommand 0x20 f (f.payload.length == 28) (onStaging f (addItem f)) s

/-- SET ITEM on surface `n` (R50). -/
def setItem (f : CommandFrame) (n : SurfaceId) (s : State) : Reply × State :=
  match (s.surf n).staged[(arg f 1).toNat]?, itemOf (argBytes f 2 27) with
  | some old, some it =>
    if it.isRedact && s.bypass then (.bare .locked, s)
    else (.done, (s.swapItem old it).setStaged n ((s.surf n).staged.set (arg f 1).toNat it))
  | _, _ => (.bare .badArg, s)

/-- SET ITEM (R50). -/
def execSetItem (f : CommandFrame) (s : State) : Host.Outcome State Fault Refusal :=
  runCommand 0x21 f (f.payload.length == 29) (onStaging f (setItem f)) s

/-- REMOVE ITEM on surface `n` (R51). -/
def removeItem (f : CommandFrame) (n : SurfaceId) (s : State) : Reply × State :=
  match (s.surf n).staged[(arg f 1).toNat]? with
  | none => (.bare .badArg, s)
  | some old =>
    let t := (s.freeItems [old]).setStaged n ((s.surf n).staged.eraseIdx (arg f 1).toNat)
    (⟨.ok, [byteOf t.freeCount]⟩, t)

/-- REMOVE ITEM (R51). -/
def execRemoveItem (f : CommandFrame) (s : State) : Host.Outcome State Fault Refusal :=
  runCommand 0x22 f (f.payload.length == 2) (onStaging f (removeItem f)) s

/-- MOVE ITEM on surface `n` (R52). -/
def moveItem (f : CommandFrame) (n : SurfaceId) (s : State) : Reply × State :=
  let items := (s.surf n).staged
  match items[(arg f 1).toNat]? with
  | none => (.bare .badArg, s)
  | some it =>
    if (arg f 2).toNat < items.length then
      (.done, s.setStaged n ((items.eraseIdx (arg f 1).toNat).insertIdx (arg f 2).toNat it))
    else (.bare .badArg, s)

/-- MOVE ITEM (R52). -/
def execMoveItem (f : CommandFrame) (s : State) : Host.Outcome State Fault Refusal :=
  runCommand 0x23 f (f.payload.length == 3) (onStaging f (moveItem f)) s

/-- CLEAR STAGED on surface `n` (R53). -/
def clearStaged (n : SurfaceId) (s : State) : Reply × State :=
  let t := (s.freeItems (s.surf n).staged).setStaged n []
  (⟨.ok, [byteOf t.freeCount]⟩, t)

/-- CLEAR STAGED (R53). -/
def execClearStaged (f : CommandFrame) (s : State) : Host.Outcome State Fault Refusal :=
  runCommand 0x24 f (f.payload.length == 1) (onStaging f clearStaged) s

/-- CLONE ACTIVE on surface `n`, which must be LIVE (R54). -/
def cloneActive (n : SurfaceId) (s : State) : Reply × State :=
  let r := s.surf n
  if r.state = .live then
    if s.freeCount < r.active.length - r.staged.length then
      (⟨.noItem, [byteOf (r.active.length - r.staged.length), byteOf s.freeCount]⟩, s)
    else
      let t := ((s.freeItems r.staged).allocItems r.active).setSurf n
        { r with staged := r.active, stagedPage := r.activePage }
      (⟨.ok, [byteOf r.active.length, byteOf t.freeCount]⟩, t)
  else (.bare .state, s)

/-- CLONE ACTIVE (R54). -/
def execCloneActive (f : CommandFrame) (s : State) : Host.Outcome State Fault Refusal :=
  runCommand 0x25 f (f.payload.length == 1) (onStaging f cloneActive) s

/-- SELECT PAGE on surface `n` (R56). -/
def selectPage (f : CommandFrame) (n : SurfaceId) (s : State) : Reply × State :=
  match pageOf (arg f 1) with
  | none => (.bare .badArg, s)
  | some p => (.done, s.setSurf n { s.surf n with stagedPage := some p })

/-- SELECT PAGE (R56). -/
def execSelectPage (f : CommandFrame) (s : State) : Host.Outcome State Fault Refusal :=
  runCommand 0x26 f (f.payload.length == 2) (onStaging f (selectPage f)) s

/-- The list of a surface that a selector names (R57). -/
def Surface.listOf (r : Surface) : ListSelector → List Item
  | .staged => r.staged
  | .active => r.active

/-- READ ITEM on surface `n` (R57). -/
def readItem (f : CommandFrame) (n : SurfaceId) (s : State) : Reply × State :=
  if (s.surf n).state = .vacant then (.bare .state, s)
  else
    match selectorOf (arg f 1) with
    | none => (.bare .badArg, s)
    | some sel =>
      match ((s.surf n).listOf sel)[(arg f 2).toNat]? with
      | none => (.bare .badArg, s)
      | some it => (⟨.ok, itemBytes it⟩, s)

/-- READ ITEM (R57). -/
def execReadItem (f : CommandFrame) (s : State) : Host.Outcome State Fault Refusal :=
  runCommand 0x27 f (f.payload.length == 3) (onSurface f (readItem f)) s

end Sys2Proof.Machine
end

