-- ==== Sys2Proof/Machine/PassCommands.lean ====
section
/-! DEFINITION. The commands of the pass-through unit and of the notice queue: SET BYPASS, DRAIN, READ STATUS and NEXT
NOTICE (chapters 8 and 9). -/

namespace Sys2Proof.Machine

/-- SET BYPASS: on is refused while a surface that is not VACANT holds a REDACT item (R153). -/
def setBypass (f : CommandFrame) (s : State) : Reply × State :=
  match switchOf (arg f 0) with
  | none => (.bare .badArg, s)
  | some on =>
    if on && s.holdsRedact then (.bare .locked, s) else (.done, { s with bypass := on })

/-- SET BYPASS (R153). -/
def execSetBypass (f : CommandFrame) (s : State) : Host.Outcome State Fault Refusal :=
  runCommand 0x60 f (f.payload.length == 1) (setBypass f) s

/-- DRAIN: the newest entry becomes the drain mark, or DRAINED is posted at once when the queue is empty; BUSY while a
drain is pending (R151). -/
def takeDrain (f : CommandFrame) (s : State) : Reply × State :=
  match s.drain with
  | some _ => (.bare .busy, s)
  | none =>
    match s.queue.getLast? with
    | none => (⟨.ok, optWord none⟩, s.post (.drained f.seq))
    | some e => (⟨.ok, optWord (some e.seq)⟩, { s with drain := some ⟨e.seq, f.seq⟩ })

/-- DRAIN (R151). -/
def execDrain (f : CommandFrame) (s : State) : Host.Outcome State Fault Refusal :=
  runCommand 0x61 f (f.payload.length == 0) (takeDrain f) s

/-- READ STATUS (R154). -/
def readStatus (s : State) : Reply × State := (⟨.ok, s.statusBytes⟩, s)

/-- READ STATUS (R154). -/
def execReadStatus (f : CommandFrame) (s : State) : Host.Outcome State Fault Refusal :=
  runCommand 0x62 f (f.payload.length == 0) readStatus s

/-- NEXT NOTICE: the oldest notice leaves the queue and is returned with the number left (R164, R183). -/
def nextNotice (s : State) : Reply × State :=
  match s.notices with
  | [] => (.bare .empty, s)
  | n :: rest => (⟨.ok, byteOf rest.length :: noticeBytes n⟩, { s with notices := rest })

/-- NEXT NOTICE (R164). -/
def execNextNotice (f : CommandFrame) (s : State) : Host.Outcome State Fault Refusal :=
  runCommand 0x70 f (f.payload.length == 0) nextNotice s

end Sys2Proof.Machine
end

