-- ==== Sys2Proof/Machine/PortCommands.lean ====
section
/-! DEFINITION. The configuration port's own rows: NOP, SOFT RESET, and transactions that carry a bad frame or an
unknown command number (chapter 10). -/

namespace Sys2Proof.Machine

/-- NOP: a good NOP frame leaves the last-result record as it was; one with a payload gives BAD_ARG (R174, R175). -/
def execNop (f : CommandFrame) (s : State) : Host.Outcome State Fault Refusal :=
  if s.resetAsserted then .next s
  else
    let got := s.receive (frameBytes 0x00 f)
    if f.payload.length = 0 then .next (got.conclude f.tail got.record)
    else .next (got.conclude f.tail ⟨.badArg, f.seq, 0x00, []⟩)

/-- Everything the chapters lay down for SOFT RESET, as one event (R176): the surfaces, the pool and the reference
counts, the drain mark, bypass and the notices are reset; the stores, the clock and the posted traffic are kept. -/
def State.softReset (s : State) : State :=
  { s with
    surfaces := Vector.replicate 8 .vacant
    freeCount := Config.poolSize
    slots := Vector.ofFn fun k => { s.slot k with refCount := 0 }
    drain := none
    bypass := false
    notices := [] }

/-- SOFT RESET (R176). -/
def execSoftReset (f : CommandFrame) (s : State) : Host.Outcome State Fault Refusal :=
  runCommand 0x01 f (f.payload.length == 0) (fun s => (.done, s.softReset)) s

/-- A transaction that carries a bad frame: nothing is executed, and the record becomes BAD_FRAME with the command
number and the sequence that were received, 0 for one that was not (R173). A transaction of no complete byte is empty:
it carries the last result out and has no other effect (R170, R171). -/
def execBadFrame (raw : RawTransaction) (s : State) : Host.Outcome State Fault Refusal :=
  if s.resetAsserted then .next s
  else
    match raw.bytes with
    | [] => .next ((s.receive []).conclude raw.tail s.record)
    | number :: rest =>
      .next ((s.receive (number :: rest)).conclude raw.tail ⟨.badFrame, rest.headD 0, number, []⟩)

/-- A good frame with a command number that the catalogue does not hold: nothing is executed, and the record becomes
BAD_COMMAND (R174). -/
def execBadCommand (number : Byte) (f : CommandFrame) (s : State) : Host.Outcome State Fault Refusal :=
  if s.resetAsserted then .next s
  else .next ((s.receive (frameBytes number f)).conclude f.tail ⟨.badCommand, f.seq, number, []⟩)

end Sys2Proof.Machine
end

