-- ==== Sys2Proof/Machine/Render.lean ====
section
/-! DEFINITION. The expansion of a string slot's codes into rendered cells (R106 to R113). -/

namespace Sys2Proof.Machine

/-- A rendered cell: a cell number of the drawing page, or BLANK (R106). -/
inductive RenderedCell where
  | glyph (cell : Nat)
  | blank
  deriving DecidableEq, Repr

/-- What the expansion of a string reads beside its codes (R106). -/
structure RenderInput where
  header  : PageHeader
  time    : Option ClockValue
  number  : FrameNumber
  surface : SurfaceId
  deriving DecidableEq, Repr

/-- The last `k` decimal digits of a number, most significant first, with leading zeros (R108). -/
def decimalDigits : Nat → Nat → List Nat
  | 0, _ => []
  | k + 1, v => decimalDigits k (v / 10) ++ [v % 10]

/-- A numeric field of `k` digit cells (R108). -/
def RenderInput.digits (env : RenderInput) (k v : Nat) : List RenderedCell :=
  (decimalDigits k v).map fun d => .glyph (env.header.digitBase + d)

/-- The hour on the twelve-hour dial (R109). -/
def hour12 (hour : Nat) : Nat :=
  if hour = 0 then 12 else if hour ≤ 12 then hour else hour - 12

/-- A time field of `k` cells: drawn from the frame time, or as many BLANK cells when it is absent (R112). -/
def RenderInput.timeField (env : RenderInput) (k : Nat) (draw : ClockValue → List RenderedCell) : List RenderedCell :=
  match env.time with
  | none => List.replicate k .blank
  | some t => draw t

/-- The rendered cells of one code (R107 to R112). -/
def RenderInput.expandCode (env : RenderInput) (code : Byte) : List RenderedCell :=
  let c := code.toNat
  if c < 128 then [.glyph c]
  else match c with
  | 128 => env.timeField 4 fun t => env.digits 4 t.year
  | 129 => env.timeField 2 fun t => env.digits 2 (t.year % 100)
  | 130 => env.timeField 2 fun t => env.digits 2 t.month
  | 131 => env.timeField 2 fun t => env.digits 2 t.day
  | 132 => env.timeField 2 fun t => env.digits 2 t.hour
  | 133 => env.timeField 2 fun t => env.digits 2 (hour12 t.hour)
  | 134 => env.timeField 1 fun t =>
      [.glyph (if t.hour < 12 then env.header.amGlyph else env.header.pmGlyph)]
  | 135 => env.timeField 2 fun t => env.digits 2 t.minute
  | 136 => env.timeField 2 fun t => env.digits 2 t.second
  | 137 => env.timeField 3 fun t => env.digits 3 t.milli
  | 138 => env.digits 8 (env.number.toNat % 100000000)
  | 139 => env.digits 4 (env.number.toNat % 10000)
  | 140 => env.digits 1 env.surface.val
  | 141 => env.timeField 1 fun t => [.glyph (env.header.weekdayBase + t.weekday)]
  | _ => [.blank]

/-- The expansion of a code sequence, cut to 64 rendered cells (R106, R113). -/
def RenderInput.expand (env : RenderInput) (codes : List Byte) : List RenderedCell :=
  (codes.flatMap env.expandCode).take Config.cellLimit

end Sys2Proof.Machine
end

