-- ==== Sys2Proof/Machine/Stamp.lean ====
section
/-! DEFINITION. The stamping engine (chapter 7): coverage, composition, blends and the bytes of a portion. It holds no
state (R114). -/

namespace Sys2Proof.Machine

/-- An item of the active list as the engine draws it: a TEXT item with its expansion, which is one for the whole
frame; the expansion of any other item is empty (R106, R119). -/
structure DrawnItem where
  item  : Item
  cells : List RenderedCell
  deriving DecidableEq, Repr

/-- What a TEXT or BOX item lays on a pixel (R125). -/
structure Contribution where
  colour : Colour
  blend  : Blend
  deriving DecidableEq, Repr

/-! Coverage (R119 to R123) -/

/-- The shade held by a rendered cell at a glyph row and column (R120). -/
def cellShade (page : GlyphPage) (cell : RenderedCell) (row col : Nat) : Shade :=
  match cell with
  | .blank => .clear
  | .glyph n =>
    match page.cells[n]? with
    | none => .clear
    | some image => (image[12 * row + col]?).getD .clear

/-- The shade of a TEXT item at a pixel, or `none` where the item does not cover it (R119, R120). -/
def textShade (page : GlyphPage) (t : TextItem) (cells : List RenderedCell) (c r : Nat) : Option Shade :=
  if t.x ≤ c ∧ t.y ≤ r ∧ r - t.y < 20 * t.scaleY then
    let cellPitch := 12 * t.scaleX + t.spacing
    let u := (c - t.x) % cellPitch
    match cells[(c - t.x) / cellPitch]? with
    | none => none
    | some cell =>
      if 12 * t.scaleX ≤ u then some .clear
      else some (cellShade page cell ((r - t.y) / t.scaleY) (u / t.scaleX))
  else none

/-- The rectangle covers the pixel (R121, R122). -/
def RectItem.covers (b : RectItem) (c r : Nat) : Bool :=
  b.x ≤ c && c < b.x + b.w && b.y ≤ r && r < b.y + b.h

/-- What a TEXT or BOX item contributes to a pixel, if it covers it and contributes; a REDACT item takes no part in
this pass (R124, R125). -/
def DrawnItem.contribution (page : GlyphPage) (d : DrawnItem) (c r : Nat) : Option Contribution :=
  match d.item with
  | .text t =>
    match textShade page t d.cells c r with
    | some .ink => some ⟨t.ink, t.blend⟩
    | some .edge => some ⟨t.edge, t.blend⟩
    | some .shade => some ⟨t.shade, .halfBlend⟩
    | some .clear => none
    | none => none
  | .box b bl => if b.covers c r then some ⟨b.ink, bl⟩ else none
  | .redact _ => none

/-- The ink colour of a REDACT item that covers the pixel (R122, R124). -/
def DrawnItem.redaction (d : DrawnItem) (c r : Nat) : Option Colour :=
  match d.item with
  | .text _ => none
  | .box _ _ => none
  | .redact b => if b.covers c r then some b.ink else none

/-- The contributions to a pixel of the first pass, from the bottom up (R124). -/
def contributionsAt (page : GlyphPage) (drawn : List DrawnItem) (c r : Nat) : List Contribution :=
  drawn.filterMap fun d => d.contribution page c r

/-- The colour of the topmost REDACT item that covers the pixel (R124). -/
def redactionAt (drawn : List DrawnItem) (c r : Nat) : Option Colour :=
  (drawn.filterMap fun d => d.redaction c r).getLast?

/-- The colour of the topmost REDACT item that covers either of two pixels of a row (R133). -/
def pairRedactionAt (drawn : List DrawnItem) (left right r : Nat) : Option Colour :=
  (drawn.filterMap fun d => (d.redaction left r).or (d.redaction right r)).getLast?

/-! Colours and blends (R126 to R128) -/

/-- Byte `i` of a colour, byte 0 the lowest eight places (R126). -/
def colourByte (c : Colour) (i : Nat) : Byte := c.extractLsb' (8 * i) 8

/-- The average of two components of one byte, rounding down (R128). -/
def averageByte (old new : Byte) : Byte := BitVec.ofNat 8 ((old.toNat + new.toNat) / 2)

/-- A one-byte component after a contribution; `keepsOnHalf` marks the X of XRGB8888, which HALF leaves (R127,
R128). -/
def blendByte (keepsOnHalf : Bool) (i : Nat) (old : Byte) (k : Contribution) : Byte :=
  match k.blend with
  | .opaqueBlend => colourByte k.colour i
  | .halfBlend => if keepsOnHalf then old else averageByte old (colourByte k.colour i)

/-- The composed value of a one-byte component (R124): the contributions from the bottom up, then the topmost
REDACT item. -/
def composeByte (page : GlyphPage) (drawn : List DrawnItem) (c r : Nat) (keepsOnHalf : Bool) (i : Nat)
    (written : Byte) : Byte :=
  match redactionAt drawn c r with
  | some ink => colourByte ink i
  | none => (contributionsAt page drawn c r).foldl (blendByte keepsOnHalf i) written

/-- The part of a colour that RGB565 reads (R126). -/
def colour565 (c : Colour) : BitVec 16 := c.extractLsb' 0 16

/-- The field-by-field average of two RGB565 values (R128). -/
def average565 (old new : BitVec 16) : BitVec 16 :=
  let field (lo w : Nat) : Nat := ((old.extractLsb' lo w).toNat + (new.extractLsb' lo w).toNat) / 2
  BitVec.ofNat 16 (field 11 5 * 2048 + field 5 6 * 32 + field 0 5)

/-- An RGB565 value after a contribution; with `opaqueOnly` every blend is taken as OPAQUE (R128, R130). -/
def blend565 (opaqueOnly : Bool) (old : BitVec 16) (k : Contribution) : BitVec 16 :=
  match k.blend with
  | .opaqueBlend => colour565 k.colour
  | .halfBlend => if opaqueOnly then colour565 k.colour else average565 old (colour565 k.colour)

/-- The composed value of an RGB565 pixel (R124, R130). -/
def compose565 (page : GlyphPage) (drawn : List DrawnItem) (c r : Nat) (opaqueOnly : Bool) (written : BitVec 16) :
    BitVec 16 :=
  match redactionAt drawn c r with
  | some ink => colour565 ink
  | none => (contributionsAt page drawn c r).foldl (blend565 opaqueOnly) written

/-- A chroma byte of a YUYV pair whose left pixel is at column `left`: by the topmost REDACT item over either pixel,
else by the topmost contributing item of the left pixel against the written chroma (R131 to R133). -/
def composeChroma (page : GlyphPage) (drawn : List DrawnItem) (left r i : Nat) (written : Byte) : Byte :=
  match pairRedactionAt drawn left (left + 1) r with
  | some ink => colourByte ink i
  | none =>
    match (contributionsAt page drawn left r).getLast? with
    | none => written
    | some k => blendByte false i written k

/-! The bytes of a portion (R115, R116, R118, R129, R130) -/

/-- The byte of the portion at place `i`, or a byte that is not enabled where the portion does not reach. -/
def laneAt (lanes : List Lane) (i : Nat) : Lane := lanes.getD i ⟨0, false⟩

/-- What an enabled byte of a portion becomes (R129 to R133). `o` is its offset from the start of its buffer and `i`
its place in the portion, whose bytes are `lanes`. -/
def stampedByte (d : SurfaceDef) (page : GlyphPage) (drawn : List DrawnItem) (lanes : List Lane) (o i : Nat) : Byte :=
  let row := o / d.pitch
  let colByte := o % d.pitch
  let written := (laneAt lanes i).data
  if d.width * d.format.bpp ≤ colByte then written
  else
    let col := colByte / d.format.bpp
    let comp := colByte % d.format.bpp
    match d.format with
    | .y8 => composeByte page drawn col row false 0 written
    | .xrgb8888 => composeByte page drawn col row (comp == 3) comp written
    | .yuyv =>
      if comp = 0 then composeByte page drawn col row false 0 written
      else composeChroma page drawn (2 * (col / 2)) row (if col % 2 = 0 then 1 else 2) written
    | .rgb565 =>
      if comp = 0 then
        let high := laneAt lanes (i + 1)
        (compose565 page drawn col row (!high.enabled) (high.data ++ written)).extractLsb' 0 8
      else
        let low := if i = 0 then ⟨0, false⟩ else laneAt lanes (i - 1)
        (compose565 page drawn col row (!low.enabled) (written ++ low.data)).extractLsb' 8 8

/-- The bytes of a portion from a place on, stamped: enabled bytes are rewritten and the others pass (R116). `all` is
the whole portion and `o` the offset of its place 0. -/
def stampFrom (d : SurfaceDef) (page : GlyphPage) (drawn : List DrawnItem) (all : List Lane) (o : Nat) :
    Nat → List Lane → List Lane
  | _, [] => []
  | i, l :: rest =>
    { l with data := if l.enabled then stampedByte d page drawn all (o + i) i else l.data }
      :: stampFrom d page drawn all o (i + 1) rest

/-- The active list of a surface as the engine draws it (R106, R114). -/
def drawnItems (s : State) (n : SurfaceId) (page : GlyphPage) (items : List Item) : List DrawnItem :=
  let env : RenderInput := ⟨page.header, (s.surf n).frame.time, (s.surf n).frame.number, n⟩
  items.map fun it =>
    match it with
    | .text t => ⟨it, env.expand (s.slot t.slot).codes⟩
    | .box _ _ => ⟨it, []⟩
    | .redact _ => ⟨it, []⟩

/-- The portion of bytes `lanes` at offset `o` of a buffer of surface `n`, stamped with the surface's active list and
active page as they stand (R114, R115). -/
def stampPortion (s : State) (n : SurfaceId) (d : SurfaceDef) (o : Nat) (lanes : List Lane) : List Lane :=
  match (s.surf n).activePage with
  | none => lanes
  | some p => stampFrom d (s.page p) (drawnItems s n (s.page p) (s.surf n).active) lanes o 0 lanes

end Sys2Proof.Machine
end

