-- ==== Sys2Proof/Machine/Track.lean ====
section
/-! DEFINITION. The classification of a write into portions, frame tracking, and the taking of a write by the surface
table (R6 to R9, R21 to R34, R64). -/

namespace Sys2Proof.Machine

/-- A buffer of a surface, as a portion lies on it. -/
structure BufferRef where
  surface : SurfaceId
  buffer  : BufferId
  deriving DecidableEq, Repr

/-- A portion of a write: its first address, the buffer it lies on or `none`, and its bytes (R8). -/
structure Portion where
  start  : Nat
  target : Option BufferRef
  lanes  : List Lane
  deriving DecidableEq, Repr

/-- The buffer of a surface definition that an address lies on (R6). -/
def SurfaceDef.bufferAt (d : SurfaceDef) (a : Nat) : Option BufferId :=
  bufferIds.find? fun k =>
    decide (k.val < d.bufferCount) && decide (d.bufferStart k.val ≤ a)
      && decide (a < d.bufferStart k.val + d.bufferSize)

/-- The buffer of a LIVE or RETIRING surface record that an address lies on (R6). -/
def Surface.bufferAt (r : Surface) (a : Nat) : Option BufferId :=
  if r.drawing then r.defn.bind fun d => d.bufferAt a else none

/-- The buffer of a surface in LIVE or RETIRING that an address lies on (R6, R7). -/
def State.locate (s : State) (a : Nat) : Option BufferRef :=
  surfaceIds.findSome? fun n => ((s.surf n).bufferAt a).map fun k => ⟨n, k⟩

/-- The portions of the bytes from address `a` on: the maximal runs that lie on one buffer of one surface, or on no
surface (R8). -/
def State.portions (s : State) : Nat → List Lane → List Portion
  | _, [] => []
  | a, l :: rest =>
    match s.portions (a + 1) rest with
    | [] => [⟨a, s.locate a, [l]⟩]
    | p :: ps =>
      if p.target = s.locate a then ⟨a, p.target, l :: p.lanes⟩ :: ps
      else ⟨a, s.locate a, [l]⟩ :: p :: ps

/-- A portion has an enabled byte (R8). -/
def anyEnabled (lanes : List Lane) : Bool := lanes.any Lane.enabled

/-! Frame tracking (R21 to R28) -/

/-- A tracked portion on buffer `k` whose lowest row is `rLow` starts a frame: first frame, buffer change or rewind
(R23). -/
def FrameRecord.startsFrame (fr : FrameRecord) (tolerance : Nat) (k : BufferId) (rLow : Nat) : Bool :=
  match fr.currentBuffer with
  | none => true
  | some b => b != k || decide (rLow + tolerance < fr.highWater)

/-- The frame record after a frame-start event (R25, steps 1 to 3). -/
def FrameRecord.started (fr : FrameRecord) (k : BufferId) (rHigh : Nat) (now : ClockValue) : FrameRecord :=
  ⟨some k, rHigh, fr.number + 1, some now⟩

/-- Steps 1 to 3 of a frame-start event on surface `n` (R25). -/
def State.beginFrame (s : State) (n : SurfaceId) (k : BufferId) (rHigh : Nat) : State :=
  s.setSurf n { s.surf n with frame := (s.surf n).frame.started k rHigh s.clock }

/-- Step 5 of a frame-start event: a pending commit of a LIVE surface is applied and COMMITTED is posted (R25,
R64). -/
def State.commitAtStart (s : State) (n : SurfaceId) : State :=
  if (s.surf n).state = .live ∧ (s.surf n).commitPending = true then
    (s.applyCommit n).post (.committed n (s.surf n).frame.number)
  else s

/-- Step 6 of a frame-start event: FRAME is posted on a LIVE surface whose frame notices field is on (R25, R28). -/
def State.noticeAtStart (s : State) (n : SurfaceId) (d : SurfaceDef) (k : BufferId) : State :=
  if (s.surf n).state = .live ∧ d.frameNotices = true then
    s.post (.frame n (s.surf n).frame.number k)
  else s

/-- A frame-start event on surface `n` caused by a portion on buffer `k` (R25). -/
def State.startFrame (s : State) (n : SurfaceId) (d : SurfaceDef) (k : BufferId) (rHigh : Nat) : State :=
  let begun := s.beginFrame n k rHigh
  if (begun.surf n).state = .retiring then begun.completeRetirement n false
  else (begun.commitAtStart n).noticeAtStart n d k

/-- A tracked portion that starts no frame raises the high-water row (R24). -/
def State.continueFrame (s : State) (n : SurfaceId) (rHigh : Nat) : State :=
  s.setSurf n
    { s.surf n with frame := { (s.surf n).frame with highWater := max (s.surf n).frame.highWater rHigh } }

/-- A tracked portion on buffer `k` of surface `n`, with rows `rLow` to `rHigh` (R23, R24, R25). -/
def State.trackPortion (s : State) (n : SurfaceId) (d : SurfaceDef) (k : BufferId) (rLow rHigh : Nat) : State :=
  if (s.surf n).frame.startsFrame d.rewindTolerance k rLow then s.startFrame n d k rHigh
  else s.continueFrame n rHigh

/-! Taking the portions of a write (R9) -/

/-- The surface that a portion is tracked and stamped on: the portion lies on a buffer of a surface that is LIVE or
RETIRING when it is handled, and has an enabled byte (R9, R22, R115). -/
def State.trackedOn (s : State) (p : Portion) : Option (BufferRef × SurfaceDef) :=
  match p.target with
  | none => none
  | some ref =>
    match (s.surf ref.surface).defn with
    | none => none
    | some d => if (s.surf ref.surface).drawing && anyEnabled p.lanes then some (ref, d) else none

/-- The bytes of a tracked portion after its frame-start event: stamped while the surface is LIVE or RETIRING and
bypass is off (R115, R117). -/
def State.stampAfter (s : State) (p : Portion) (ref : BufferRef) (d : SurfaceDef) : List Lane :=
  if (s.surf ref.surface).drawing && !s.bypass then
    stampPortion s ref.surface d (p.start - d.bufferStart ref.buffer.val) p.lanes
  else p.lanes

/-- The frame tracking of one portion: its rows run from that of its first byte to that of its last (R8, R22). -/
def State.trackIfDrawn (s : State) (p : Portion) : State :=
  match s.trackedOn p with
  | none => s
  | some (ref, d) =>
    let o := p.start - d.bufferStart ref.buffer.val
    s.trackPortion ref.surface d ref.buffer (o / d.pitch) ((o + p.lanes.length - 1) / d.pitch)

/-- One portion, handled completely: tracked, then stamped against the record its tracking left (R9). -/
def State.handlePortion (s : State) (p : Portion) : State × List Lane :=
  let tracked := s.trackIfDrawn p
  match s.trackedOn p with
  | none => (tracked, p.lanes)
  | some (ref, d) => (tracked, tracked.stampAfter p ref d)

/-- The surface and frame number that a tracked portion gives the write's entry (R9). -/
def State.ownerAfter (s after : State) (p : Portion) : Option EntryOwner :=
  (s.trackedOn p).map fun t => ⟨t.1.surface, (after.surf t.1.surface).frame.number⟩

/-- What the surface table hands to the pass-through unit: the stamped bytes of the write, and the surface and frame
number of its lowest-addressed tracked portion (R9). -/
structure TakenWrite where
  lanes : List Lane
  owner : Option EntryOwner
  deriving DecidableEq, Repr

/-- The portions of a write, handled in address order (R9). -/
def State.handlePortions (s : State) : List Portion → State × TakenWrite
  | [] => (s, ⟨[], none⟩)
  | p :: ps =>
    let first := s.handlePortion p
    let later := first.1.handlePortions ps
    (later.1, ⟨first.2 ++ later.2.lanes, (s.ownerAfter first.1 p).or later.2.owner⟩)

/-- The surface table takes a write (R8, R9). -/
def State.classifyWrite (s : State) (w : WriteRequest) : State × TakenWrite :=
  s.handlePortions (s.portions w.addr.toNat w.lanes)

end Sys2Proof.Machine
end

