-- ==== Sys2Proof/Machine/Traffic.lean ====
section
/-! DEFINITION. The pass-through unit (chapter 8): spans, the taking of requests, issue, completion, held reads,
answers and the pending drain, and what follows at the first moment its condition holds. -/

namespace Sys2Proof.Machine

/-! Spans and sequence numbers -/

/-- Two spans of bytes overlap when each begins below the end of the other (R143). -/
def spansOverlap (a alen b blen : Nat) : Bool := decide (a < b + blen) && decide (b < a + alen)

/-- The span of a read overlaps the span of an entry; enables are not consulted (R143). -/
def QueueEntry.overlapsRead (e : QueueEntry) (r : ReadRequest) : Bool :=
  spansOverlap e.addr.toNat e.lanes.length r.addr.toNat r.length

/-- `a` is at or below `b` in queue order, counting across the step from FFFFFFFFH to 0 (R143; log 9). -/
def seqAtOrBelow (a b : SeqNumber) : Bool := decide ((b - a).toNat < 2 ^ 31)

/-- The number of ISSUED entries. -/
def State.issuedCount (s : State) : Nat := s.queue.countP fun e => e.state == .issued

/-! Malformed requests (R140) -/

/-- A request of `len` bytes at `a` does not lie in one 4 KiB block (R140). -/
def crossesBlock (a : Address) (len : Nat) : Bool := a.toNat / 4096 != (a.toNat + len - 1) / 4096

/-- The write crosses a 4 KiB boundary (R140). -/
def malformedWrite (w : WriteRequest) : Bool := crossesBlock w.addr w.lanes.length

/-- The read crosses a 4 KiB boundary (R140). -/
def malformedRead (r : ReadRequest) : Bool := crossesBlock r.addr r.length

/-! The answer order list (R149, R150) -/

/-- An answer to a request of the tag needs a place: an earlier request of the tag holds one (R150; log 10). -/
def State.needsPlace (s : State) (t : Tag) : Bool := s.places.any fun p => p.tag == t

/-- An answer to a request of the tag finds a place if it needs one (R139, R150). -/
def State.answerFits (s : State) (t : Tag) : Bool :=
  !s.needsPlace t || decide (s.places.length < Config.placeCapacity)

/-- A ready answer is returned upstream at once, or takes a place behind the earlier requests of its tag (R149,
R150). -/
def State.oweAnswer (s : State) (t : Tag) (a : AnswerStatus) : State :=
  if s.needsPlace t then { s with places := s.places ++ [⟨t, .ready a⟩] }
  else { s with answers := s.answers ++ [⟨t, a⟩] }

/-- The ready answer at the front of a tag's places, and the list without it. -/
def popReady (t : Tag) : List Place → Option (AnswerStatus × List Place)
  | [] => none
  | p :: ps =>
    if p.tag = t then
      match p.state with
      | .ready a => some (a, ps)
      | .held => none
      | .forwarded => none
    else (popReady t ps).map fun out => (out.1, p :: out.2)

/-- The ready answer at the front of a tag's places, if there is one, is returned upstream (R149). -/
def State.answerOne (s : State) (t : Tag) : State :=
  match popReady t s.places with
  | none => s
  | some (a, ps) => { s with places := ps, answers := s.answers ++ [⟨t, a⟩] }

/-- `k` times the same step. -/
def repeatStep (k : Nat) (g : State → State) (s : State) : State :=
  match k with
  | 0 => s
  | k + 1 => repeatStep k g (g s)

/-- Every ready answer of a tag that waits for no earlier request is returned upstream, in order (R149, R150). -/
def State.answerReady (s : State) (t : Tag) : State :=
  repeatStep s.places.length (fun s => s.answerOne t) s

/-- The first place of a tag in a given state takes a new state; `none` when the tag has no such place. -/
def movePlace (t : Tag) (old new : PlaceState) : List Place → Option (List Place)
  | [] => none
  | p :: ps =>
    if p.tag = t ∧ p.state = old then some (⟨t, new⟩ :: ps)
    else (movePlace t old new ps).map fun out => p :: out

/-! Reads (R146, R147) -/

/-- The overlap mark of a read when it is taken: the sequence number of the newest entry that overlaps it (R146). -/
def State.overlapMark (s : State) (r : ReadRequest) : Option SeqNumber :=
  ((s.queue.filter fun e => e.overlapsRead r).getLast?).map QueueEntry.seq

/-- A read of the tag is on the held-read list. -/
def State.tagHeld (s : State) (t : Tag) : Bool := s.held.any fun h => h.req.tag == t

/-- A read must be held: an entry overlaps it, or a read of its tag is held (R146). -/
def State.mustHold (s : State) (r : ReadRequest) : Bool := (s.overlapMark r).isSome || s.tagHeld r.tag

/-- A held read is ready: no entry at or below its overlap mark that overlaps it remains in the queue (R147). -/
def State.heldReady (s : State) (h : HeldRead) : Bool :=
  match h.overlapMark with
  | none => true
  | some m => !s.queue.any fun e => seqAtOrBelow e.seq m && e.overlapsRead h.req

/-- A read is forwarded downstream (R148). -/
def State.presentRead (s : State) (r : ReadRequest) : State :=
  { s with presented := s.presented ++ [.read r.addr r.length r.tag] }

/-- The oldest held read is released and forwarded downstream, if it is ready (R147). -/
def State.releaseOne (s : State) : State :=
  match s.held with
  | [] => s
  | h :: rest =>
    if s.heldReady h then
      ({ s with
          held := rest
          places := (movePlace h.req.tag .held .forwarded s.places).getD s.places }).presentRead h.req
    else s

/-! Issue (R143) -/

/-- A read taken before the entry and still held overlaps the entry (R143). -/
def State.heldBack (s : State) (e : QueueEntry) : Bool :=
  s.held.any fun h => seqAtOrBelow h.arrivalMark e.seq && e.overlapsRead h.req

/-- The queue split at its oldest QUEUED entry. -/
def splitQueued : List QueueEntry → Option (List QueueEntry × QueueEntry × List QueueEntry)
  | [] => none
  | e :: es =>
    if e.state = .queued then some ([], e, es)
    else (splitQueued es).map fun out => (e :: out.1, out.2)

/-- The oldest QUEUED entry is issued downstream, if fewer than 4 entries are ISSUED and no earlier held read overlaps
it (R143). -/
def State.issueOne (s : State) : State :=
  match splitQueued s.queue with
  | none => s
  | some (before, e, after) =>
    if s.issuedCount < Config.issueLimit ∧ s.heldBack e = false then
      { s with
        queue := before ++ { e with state := .issued } :: after
        presented := s.presented ++ [.write e.addr e.lanes e.tag] }
    else s

/-- Every held read that may be released is, oldest first, and then every entry that may be issued is (R143, R147;
log 2). -/
def State.advance (s : State) : State :=
  repeatStep Config.issueLimit State.issueOne (repeatStep s.held.length State.releaseOne s)

/-! Taking upstream requests (R139 to R142, R146) -/

/-- The request can be taken: its condition to wait does not hold (R139). -/
def State.canTake (s : State) : UpstreamRequest → Bool
  | .write w =>
    if malformedWrite w || !anyEnabled w.lanes then s.answerFits w.tag
    else decide (s.queue.length < Config.queueCapacity) && s.answerFits w.tag
  | .read r =>
    if malformedRead r then s.answerFits r.tag
    else decide (s.places.length < Config.placeCapacity)
      && (!s.mustHold r || decide (s.held.length < Config.heldCapacity))

/-- A malformed request is taken: it is answered FAULT and MALFORMED is posted (R140). -/
def State.takeMalformed (s : State) (a : Address) (len : Nat) (t : Tag) : State :=
  (s.post (.malformed a len t)).oweAnswer t .fault

/-- A write with an enabled byte is taken: classified, tracked and stamped, queued as a new entry, and owed a POSTED
answer (R142). -/
def State.enqueueWrite (s : State) (w : WriteRequest) : State :=
  let out := s.classifyWrite w
  let entry : QueueEntry := ⟨out.1.nextSeq, w.addr, out.2.lanes, w.tag, out.2.owner, .queued⟩
  ({ out.1 with queue := out.1.queue ++ [entry], nextSeq := out.1.nextSeq + 1 }).oweAnswer w.tag .posted

/-- A read that is not malformed is taken: held, or forwarded at once (R146). -/
def State.acceptRead (s : State) (r : ReadRequest) : State :=
  if s.mustHold r then
    { s with
      held := s.held ++ [⟨r, s.overlapMark r, s.nextSeq⟩]
      places := s.places ++ [⟨r.tag, .held⟩] }
  else ({ s with places := s.places ++ [⟨r.tag, .forwarded⟩] } : State).presentRead r

/-- An upstream request is taken (R140, R141, R142, R146). -/
def State.takeRequest (s : State) : UpstreamRequest → State
  | .write w =>
    if malformedWrite w then s.takeMalformed w.addr w.lanes.length w.tag
    else if anyEnabled w.lanes then s.enqueueWrite w
    else s.oweAnswer w.tag .posted
  | .read r =>
    if malformedRead r then s.takeMalformed r.addr r.length r.tag else s.acceptRead r

/-- The waiting requests are taken in arrival order, each at the first moment it can be, until one must wait
(R139). -/
def State.takeWaiting (s : State) : List UpstreamRequest → State
  | [] => { s with upstream := [] }
  | q :: rest =>
    if s.canTake q then (s.takeRequest q).advance.takeWaiting rest
    else { s with upstream := q :: rest }

/-- What follows an event at the first moment: releases, issues and the taking of waiting requests (log 1, log 2). -/
def State.settle (s : State) : State := s.advance.takeWaiting s.advance.upstream

/-- A request arrives at the upstream port behind those that wait there (R139). While RESETN is asserted no request is
taken (R186). -/
def State.arrive (s : State) (q : UpstreamRequest) : State :=
  let waiting := { s with upstream := s.upstream ++ [q] }
  if s.resetAsserted then waiting else waiting.settle

/-! Completions and the pending drain (R144, R152) -/

/-- An entry at or below the drain mark remains in the queue (R152). -/
def State.drainWaits (s : State) (d : PendingDrain) : Bool :=
  s.queue.any fun e => seqAtOrBelow e.seq d.mark

/-- A pending drain is met when every entry at or below its mark has left the queue: DRAINED is posted and no drain is
pending (R152). -/
def State.meetDrain (s : State) : State :=
  match s.drain with
  | none => s
  | some d => if s.drainWaits d then s else ({ s with drain := none }).post (.drained d.id)

/-- The head entry leaves the queue on its completion; a FAULT posts WRITE_FAULT (R144). With no entry ISSUED the
completion belongs to no entry (R144). -/
def State.completeHead (s : State) (st : CompletionStatus) : State :=
  match s.queue with
  | [] => s
  | e :: rest =>
    match e.state with
    | .queued => s
    | .issued =>
      match st with
      | .ok => { s with queue := rest }
      | .fault => ({ s with queue := rest }).post (.writeFault e.owner e.addr e.lanes.length e.tag)

/-- The answer that a read response becomes (R148). -/
def answerOf : ReadReturn → AnswerStatus
  | .ok data => .ok data
  | .fault => .fault

/-- A read response reaches the first read of its tag that awaits one; a response that no read awaits is ignored
(R148). -/
def State.respond (s : State) (t : Tag) (ret : ReadReturn) : State :=
  match movePlace t .forwarded (.ready (answerOf ret)) s.places with
  | none => s
  | some ps => { s with places := ps }

end Sys2Proof.Machine
end

