-- ==== Sys2Proof/Machine/ResetEvents.lean ====
section
/-! DEFINITION. The reset input and the time base: HARD_RESET, RESETN_RELEASE, TICK and the expiries of deadlines
(chapters 1, 4, 6, 10 and 11). -/

namespace Sys2Proof.Machine

/-- RESETN is asserted: every block takes its hard-reset state, a transaction in progress is abandoned, and the
requests that wait at the upstream port go on waiting (R155, R178, R186). -/
def execHardReset (received : Option (List Byte)) (s : State) : Host.Outcome State Fault Refusal :=
  .next
    { State.reset with
      linkAbandoned := received.isSome
      resetAsserted := true
      upstream := s.upstream
      pending := s.pending }

/-- RESETN is released: the core begins to take events, the waiting requests first; while CFG_CSN is low the link
waits for its rise (R178, R187). What CFG_MISO carries until then in a transaction that began under reset, R178 does
not say: the model's choice is 00H (`Link.miso`; log 17). -/
def execResetnRelease (csnLow : Bool) (s : State) : Host.Outcome State Fault Refusal :=
  if s.resetAsserted then .next ({ s with resetAsserted := false, linkAbandoned := csnLow } : State).settle
  else .next s

/-- A tick as the calendar clock takes it: it advances a RUNNING clock by one millisecond, or stops it at the last
value of its range and posts CLOCK_END (R98, R99, R100). -/
def State.tickClock (s : State) : State :=
  match s.clockState with
  | .stopped => s
  | .running =>
    if s.clock = .last then ({ s with clockState := .stopped }).post .clockEnd
    else { s with clock := s.clock.addMillis 1 }

/-- A surface whose deadline a tick counts: LIVE with a commit pending, or RETIRING (R15, R65). -/
def Surface.countsDeadline (r : Surface) : Bool :=
  (r.state == .live && r.commitPending) || r.state == .retiring

/-- The deadline remaining of surface `n` falls by 1 where a tick counts it (R15, R65). -/
def State.countDown (s : State) (n : SurfaceId) : State :=
  if (s.surf n).countsDeadline then
    s.setSurf n { s.surf n with deadlineRemaining := (s.surf n).deadlineRemaining.map fun d => d - 1 }
  else s

/-- A tick as surface `n` takes it: its deadline falls by 1, and one that reaches 0 forces the commit or the
retirement (R15, R65, R66). -/
def State.tickSurface (s : State) (n : SurfaceId) : State :=
  ((s.countDown n).forceCommit n).forceRetirement n

/-- A rise of TICK: the clock first, then the deadlines in ascending surface number (R185). A tick while RESETN is
asserted is not taken (R185). -/
def execTick (s : State) : Host.Outcome State Fault Refusal :=
  if s.resetAsserted then .next s
  else .next (surfaceIds.foldl State.tickSurface s.tickClock)

/-- The expiry of a commit's deadline on surface `n` (R66). The tick that brings a deadline to 0 performs it; as a row
of its own it acts where the deadline remaining stands at 0 (log 1). -/
def execForcedCommit (n : SurfaceId) (s : State) : Host.Outcome State Fault Refusal :=
  if s.resetAsserted then .next s else .next (s.forceCommit n)

/-- The expiry of a retirement's deadline on surface `n` (R15; log 1). -/
def execForcedRetirement (n : SurfaceId) (s : State) : Host.Outcome State Fault Refusal :=
  if s.resetAsserted then .next s else .next (s.forceRetirement n)

end Sys2Proof.Machine
end

