-- ==== Sys2Proof/Machine/StoreCommands.lean ====
section
/-! DEFINITION. The commands of the glyph store and the string store (chapter 5). -/

namespace Sys2Proof.Machine

/-- WRITE GLYPH: the checks of R83 in order, then the named cell takes all 240 shades. -/
def writeGlyph (f : CommandFrame) (s : State) : Reply × State :=
  match pageOf (arg f 0), cellOf (arg f 1) with
  | some p, some c =>
    if s.pageInUse p then (.bare .inUse, s)
    else (.done, s.setPage p { s.page p with cells := (s.page p).cells.set c (cellOfBytes (argBytes f 2 60)) })
  | _, _ => (.bare .badArg, s)

/-- WRITE GLYPH (R83). -/
def execWriteGlyph (f : CommandFrame) (s : State) : Host.Outcome State Fault Refusal :=
  runCommand 0x40 f (f.payload.length == 62) (writeGlyph f) s

/-- WRITE PAGE HEADER: the checks of R84 in order, then all four values are replaced. -/
def writePageHeader (f : CommandFrame) (s : State) : Reply × State :=
  match pageOf (arg f 0), headerOf (argBytes f 1 4) with
  | some p, some h =>
    if s.pageInUse p then (.bare .inUse, s) else (.done, s.setPage p { s.page p with header := h })
  | _, _ => (.bare .badArg, s)

/-- WRITE PAGE HEADER (R84). -/
def execWritePageHeader (f : CommandFrame) (s : State) : Host.Outcome State Fault Refusal :=
  runCommand 0x41 f (f.payload.length == 5) (writePageHeader f) s

/-- The OK payload of READ GLYPH with HEADER (R85, R182). -/
def headerBytes (h : PageHeader) (inUse : Bool) : List Byte :=
  [byteOf h.digitBase, byteOf h.amGlyph, byteOf h.pmGlyph, byteOf h.weekdayBase, flagByte inUse]

/-- READ GLYPH: a cell, or the header and the page's in-use status (R85). -/
def readGlyph (f : CommandFrame) (s : State) : Reply × State :=
  match pageOf (arg f 0), glyphSelectorOf (arg f 1) with
  | some p, some (.cell c) => (⟨.ok, cellBytes (s.page p).cells[c]⟩, s)
  | some p, some .header => (⟨.ok, headerBytes (s.page p).header (s.pageInUse p)⟩, s)
  | _, _ => (.bare .badArg, s)

/-- READ GLYPH (R85). -/
def execReadGlyph (f : CommandFrame) (s : State) : Host.Outcome State Fault Refusal :=
  runCommand 0x42 f (f.payload.length == 2) (readGlyph f) s

/-- The payload of WRITE STRING is as long as the length byte in it requires; one too short to hold that byte is not
(R174, R182). -/
def stringLengthOk (f : CommandFrame) : Bool :=
  decide (2 ≤ f.payload.length) && f.payload.length == 2 + (arg f 1).toNat

/-- WRITE STRING: the checks of R92 in order, then the slot's codes are replaced whole. -/
def writeString (f : CommandFrame) (s : State) : Reply × State :=
  match slotOf (arg f 0) with
  | none => (.bare .badArg, s)
  | some k =>
    if Config.slotCapacity < (arg f 1).toNat then (.bare .badArg, s)
    else if (s.slot k).refCount ≠ 0 then (.bare .inUse, s)
    else (.done, s.setSlot k { s.slot k with codes := argBytes f 2 (arg f 1).toNat })

/-- WRITE STRING (R92). -/
def execWriteString (f : CommandFrame) (s : State) : Host.Outcome State Fault Refusal :=
  runCommand 0x43 f (stringLengthOk f) (writeString f) s

/-- The OK payload of READ STRING (R93, R182). -/
def slotBytes (v : StringSlot) : List Byte := [byteOf v.codes.length] ++ v.codes ++ [byteOf v.refCount]

/-- READ STRING (R93). -/
def readString (f : CommandFrame) (s : State) : Reply × State :=
  match slotOf (arg f 0) with
  | none => (.bare .badArg, s)
  | some k => (⟨.ok, slotBytes (s.slot k)⟩, s)

/-- READ STRING (R93). -/
def execReadString (f : CommandFrame) (s : State) : Host.Outcome State Fault Refusal :=
  runCommand 0x44 f (f.payload.length == 1) (readString f) s

end Sys2Proof.Machine
end

