-- ==== Sys2Proof/Machine/TrafficEvents.lean ====
section
/-! DEFINITION. The events of the pass-through ports (chapter 8). -/

namespace Sys2Proof.Machine

/-- A write arrives at the upstream port and is taken as R139 allows (R142). -/
def execUpstreamWrite (w : WriteRequest) (s : State) : Host.Outcome State Fault Refusal :=
  .next (s.arrive (.write w))

/-- A read arrives at the upstream port and is taken as R139 allows (R146). -/
def execUpstreamRead (r : ReadRequest) (s : State) : Host.Outcome State Fault Refusal :=
  .next (s.arrive (.read r))

/-- The oldest QUEUED entry is issued if R143 lets it be. The event that lets it performs it (log 1). -/
def execWriteIssue (s : State) : Host.Outcome State Fault Refusal :=
  if s.resetAsserted then .next s else .next s.issueOne

/-- A write completion: the head entry leaves the queue, a FAULT posts WRITE_FAULT, a pending drain may be met, and
reads, entries and waiting requests move on (R144, R152). It is ignored while RESETN is asserted (R186). -/
def execWriteCompletion (st : CompletionStatus) (s : State) : Host.Outcome State Fault Refusal :=
  if s.resetAsserted then .next s else .next (s.completeHead st).meetDrain.settle

/-- The oldest held read is released if it is ready (R147). The event that makes it ready performs it (log 1). -/
def execHeldReadRelease (s : State) : Host.Outcome State Fault Refusal :=
  if s.resetAsserted then .next s else .next s.releaseOne

/-- A read response: it is answered upstream in its tag's order, and waiting requests may then be taken (R148, R149).
It is ignored while RESETN is asserted (R186). -/
def execReadResponse (t : Tag) (ret : ReadReturn) (s : State) : Host.Outcome State Fault Refusal :=
  if s.resetAsserted then .next s else .next ((s.respond t ret).answerReady t).settle

/-- The ready answer at the front of a tag's places is returned upstream (R149). The event that lets it go performs it
(log 1). -/
def execUpstreamAnswer (t : Tag) (s : State) : Host.Outcome State Fault Refusal :=
  if s.resetAsserted then .next s else .next (s.answerOne t)

/-- A pending drain is met (R152). The completion of its mark entry performs it (log 1). -/
def execDrainMet (s : State) : Host.Outcome State Fault Refusal :=
  if s.resetAsserted then .next s else .next s.meetDrain

end Sys2Proof.Machine
end

