-- ==== Sys2Proof/Machine/Dispatch.lean ====
section
/-! DEFINITION. One arm per command: each calls the command's meaning. -/

namespace Sys2Proof.Machine

/-- The effect of a command on everything but the queue of waiting commands. -/
def exec (i : Instr) (s : State) : Host.Outcome State Fault Refusal :=
  match i with
  | .nop f => Sys2Proof.Machine.execNop f s
  | .softReset f => Sys2Proof.Machine.execSoftReset f s
  | .defineSurface f => Sys2Proof.Machine.execDefineSurface f s
  | .activateSurface f => Sys2Proof.Machine.execActivateSurface f s
  | .retireSurface f => Sys2Proof.Machine.execRetireSurface f s
  | .releaseSurface f => Sys2Proof.Machine.execReleaseSurface f s
  | .readSurface f => Sys2Proof.Machine.execReadSurface f s
  | .addItem f => Sys2Proof.Machine.execAddItem f s
  | .setItem f => Sys2Proof.Machine.execSetItem f s
  | .removeItem f => Sys2Proof.Machine.execRemoveItem f s
  | .moveItem f => Sys2Proof.Machine.execMoveItem f s
  | .clearStaged f => Sys2Proof.Machine.execClearStaged f s
  | .cloneActive f => Sys2Proof.Machine.execCloneActive f s
  | .selectPage f => Sys2Proof.Machine.execSelectPage f s
  | .readItem f => Sys2Proof.Machine.execReadItem f s
  | .commit f => Sys2Proof.Machine.execCommit f s
  | .cancelCommit f => Sys2Proof.Machine.execCancelCommit f s
  | .writeGlyph f => Sys2Proof.Machine.execWriteGlyph f s
  | .writePageHeader f => Sys2Proof.Machine.execWritePageHeader f s
  | .readGlyph f => Sys2Proof.Machine.execReadGlyph f s
  | .writeString f => Sys2Proof.Machine.execWriteString f s
  | .readString f => Sys2Proof.Machine.execReadString f s
  | .setClock f => Sys2Proof.Machine.execSetClock f s
  | .holdClock f => Sys2Proof.Machine.execHoldClock f s
  | .adjustClock f => Sys2Proof.Machine.execAdjustClock f s
  | .readClock f => Sys2Proof.Machine.execReadClock f s
  | .setBypass f => Sys2Proof.Machine.execSetBypass f s
  | .drain f => Sys2Proof.Machine.execDrain f s
  | .readStatus f => Sys2Proof.Machine.execReadStatus f s
  | .nextNotice f => Sys2Proof.Machine.execNextNotice f s
  | .badFrame raw => Sys2Proof.Machine.execBadFrame raw s
  | .badCommand number f => Sys2Proof.Machine.execBadCommand number f s
  | .hardReset received => Sys2Proof.Machine.execHardReset received s
  | .resetnRelease csnLow => Sys2Proof.Machine.execResetnRelease csnLow s
  | .tick => Sys2Proof.Machine.execTick s
  | .forcedCommit n => Sys2Proof.Machine.execForcedCommit n s
  | .forcedRetirement n => Sys2Proof.Machine.execForcedRetirement n s
  | .upstreamWrite w => Sys2Proof.Machine.execUpstreamWrite w s
  | .upstreamRead r => Sys2Proof.Machine.execUpstreamRead r s
  | .writeIssue => Sys2Proof.Machine.execWriteIssue s
  | .writeCompletion st => Sys2Proof.Machine.execWriteCompletion st s
  | .heldReadRelease => Sys2Proof.Machine.execHeldReadRelease s
  | .readResponse tag ret => Sys2Proof.Machine.execReadResponse tag ret s
  | .upstreamAnswer tag => Sys2Proof.Machine.execUpstreamAnswer tag s
  | .drainMet => Sys2Proof.Machine.execDrainMet s

end Sys2Proof.Machine
end

