-- ==== Sys2Proof/Machine/Link.lean ====
section
/-! DEFINITION. The pins of the configuration link, edge by edge (R170, R178): what each edge of CFG_CSN, CFG_SCK and
RESETN does to a transaction, which row of the table it makes the core take, and what CFG_MISO carries. The rows
stand for whole transactions; this file says which pin edges spell them. -/

namespace Sys2Proof.Machine

/-- An edge of an input pin of the link, or of RESETN. A rise of CFG_SCK comes with the level of CFG_MOSI, which is
sampled there. -/
inductive LinkEdge where
  | csnFall
  | csnRise
  | sckRise (mosi : Bool)
  | sckFall
  | resetnFall
  | resetnRise
  deriving DecidableEq, Repr

/-- The link between two edges. -/
structure Link where
  /-- CFG_CSN is low: a transaction is in progress. -/
  csnLow        : Bool
  /-- RESETN is asserted. -/
  resetAsserted : Bool
  /-- The transaction in progress is not to be taken: a reset has abandoned it, or it began under reset (R178). -/
  abandoned     : Bool
  /-- The bits sampled in the transaction in progress, in order. -/
  received      : List Bool
  /-- The place in the transaction of the outward bit that CFG_MISO carries. -/
  place         : Nat
  deriving DecidableEq, Repr

/-- The link at rest: CFG_CSN high, RESETN released. -/
def Link.idle : Link := ⟨false, false, false, [], 0⟩

/-- What an edge does. A transaction begins at a fall of CFG_CSN and ends at the next rise; CFG_MOSI is sampled on each
rising edge of CFG_SCK and CFG_MISO changes after each falling edge; edges of CFG_SCK while CFG_CSN is high are
ignored (R170). A reset abandons the transaction in progress, and while it lasts none is taken (R178). -/
def Link.edge (l : Link) : LinkEdge → Link
  | .csnFall => { l with csnLow := true, abandoned := l.resetAsserted, received := [], place := 0 }
  | .csnRise => { l with csnLow := false, abandoned := false, received := [], place := 0 }
  | .sckRise mosi => if l.csnLow && !l.abandoned then { l with received := l.received ++ [mosi] } else l
  | .sckFall => if l.csnLow then { l with place := l.place + 1 } else l
  | .resetnFall => { l with resetAsserted := true, abandoned := l.csnLow, received := [] }
  | .resetnRise => { l with resetAsserted := false }

/-- The row that an edge makes the core take: the transaction that ends at a rise of CFG_CSN (R170, R173, R174), and
the two edges of RESETN (R178, R187). -/
def Link.row (l : Link) : LinkEdge → Option Instr
  | .csnFall => none
  | .csnRise => if l.csnLow && !l.abandoned then some (decodeTransactionBits l.received) else none
  | .sckRise _ => none
  | .sckFall => none
  | .resetnFall => some (.hardReset (if l.csnLow then some (bytesOfBits l.received) else none))
  | .resetnRise => some (.resetnRelease l.csnLow)

/-- The level of CFG_MISO while the core shifts the bits `out` out: the bit at the link's place, then those of 00H
bytes, from the fall of CFG_CSN on; it is not driven while CFG_CSN is high (R170). In an abandoned transaction it
carries 00H bytes (R178); that it does so too in a transaction that began under reset is the model's choice (log 17). -/
def Link.miso (l : Link) (out : List Bool) : Option Bool :=
  if l.csnLow then some (!l.abandoned && out.getD l.place false) else none

/-- The link after a run of edges. -/
def Link.after (l : Link) (edges : List LinkEdge) : Link := edges.foldl Link.edge l

/-- The rows that a run of edges makes the core take, in order. -/
def Link.rows (l : Link) : List LinkEdge → List Instr
  | [] => []
  | e :: edges => (l.row e).toList ++ (l.edge e).rows edges

/-- The levels of CFG_MISO at the rising edges of CFG_SCK in a run of edges, where the master samples it (R170). -/
def Link.samples (l : Link) (out : List Bool) : List LinkEdge → List Bool
  | [] => []
  | .sckRise mosi :: edges => (l.miso out).toList ++ (l.edge (.sckRise mosi)).samples out edges
  | e :: edges => (l.edge e).samples out edges

/-- The edges of one transaction in SPI mode 0 that carries the given bits: CFG_SCK rises and falls once for each
(R170). -/
def transactionEdges (bits : List Bool) : List LinkEdge :=
  .csnFall :: bits.flatMap (fun b => [.sckRise b, .sckFall]) ++ [.csnRise]

end Sys2Proof.Machine
end

