-- ==== Sys2Proof/Safety.lean ====
section
/-! DEFINITION. The terms in which claims about the block are made: what a transaction leaves, the time a clock value
stands for, and the invariants of the state. -/

namespace Sys2Proof.Machine

/-! What a transaction of the configuration port leaves -/

/-- The state `t` after a transaction taken in state `s` that carried the frame `f` of the command `number`: the old
result has gone out, and the record is the new one (R170, R175). -/
def replied (s : State) (number : Byte) (f : CommandFrame) (c : ResultCode) (payload : List Byte) (t : State) : State :=
  { t with
    misoOut := shiftedOut s.record (frameBits number f).length
    record := ⟨c, f.seq, number, payload⟩
    rxFrame := []
    linkAbandoned := false }

/-- The length of a command's payload as its row of R182 gives it; the two rows without a fixed length in R182 give
theirs from the payload (WRITE STRING), and a number outside the catalogue has none. -/
def payloadFits (number : Byte) (f : CommandFrame) : Bool :=
  match number.toNat with
  | 0x00 => f.payload.length == 0
  | 0x01 => f.payload.length == 0
  | 0x10 => f.payload.length == 24
  | 0x11 => f.payload.length == 1
  | 0x12 => f.payload.length == 1
  | 0x13 => f.payload.length == 1
  | 0x14 => f.payload.length == 1
  | 0x20 => f.payload.length == 28
  | 0x21 => f.payload.length == 29
  | 0x22 => f.payload.length == 2
  | 0x23 => f.payload.length == 3
  | 0x24 => f.payload.length == 1
  | 0x25 => f.payload.length == 1
  | 0x26 => f.payload.length == 2
  | 0x27 => f.payload.length == 3
  | 0x30 => f.payload.length == 1
  | 0x31 => f.payload.length == 1
  | 0x40 => f.payload.length == 62
  | 0x41 => f.payload.length == 5
  | 0x42 => f.payload.length == 2
  | 0x43 => 2 ≤ f.payload.length && f.payload.length == 2 + (f.payload.getD 1 0).toNat
  | 0x44 => f.payload.length == 1
  | 0x50 => f.payload.length == 9
  | 0x51 => f.payload.length == 0
  | 0x52 => f.payload.length == 2
  | 0x53 => f.payload.length == 0
  | 0x60 => f.payload.length == 1
  | 0x61 => f.payload.length == 0
  | 0x62 => f.payload.length == 0
  | 0x70 => f.payload.length == 0
  | _ => false

/-! Time -/

/-- The milliseconds from the first value of the clock's range to the value. -/
def ClockValue.millis (v : ClockValue) : Nat :=
  (((v.dayNumber * 24 + v.hour) * 60 + v.minute) * 60 + v.second) * 1000 + v.milli

/-! Invariants of the surface table, the pool and the string store -/

/-- A surface definition as DEFINE SURFACE accepts it (R3, R4). -/
def SurfaceDef.legal (d : SurfaceDef) : Bool :=
  d.rangesOk && d.consistent && (d.bufferCount != 1 || d.stride == d.bufferSize)

/-- The deadline remaining of a wait whose deadline field is that of `d`: absent when the field is 0, and otherwise a
value from 1 to the field (R59). -/
def deadlineWf (d : SurfaceDef) (remaining : Option Nat) : Bool :=
  match remaining with
  | none => d.deadline == 0
  | some k => 1 ≤ k && k ≤ d.deadline

/-- A frame record of a LIVE or RETIRING surface: the current buffer and the frame time are absent together, the
buffer is one of the surface's, and the high-water row one of its rows (R21). -/
def FrameRecord.wf (fr : FrameRecord) (d : SurfaceDef) : Bool :=
  fr.highWater < d.height
    && (match fr.currentBuffer, fr.time with
        | none, none => fr.highWater == 0 && fr.number == 0
        | some k, some v => decide (k.val < d.bufferCount) && v.valid
        | _, _ => false)

/-- Which fields of a surface record hold values, by its state (R1). -/
def Surface.wf (r : Surface) : Bool :=
  match r.state, r.defn with
  | .vacant, _ => r == Surface.vacant
  | .defined, some d =>
    d.legal && r.staged.length ≤ 16 && r.stagedPage.isSome && r.active.isEmpty && r.activePage.isNone
      && !r.commitPending && r.deadlineRemaining.isNone
  | .live, some d =>
    d.legal && r.staged.length ≤ 16 && r.stagedPage.isSome && r.active.length ≤ 16 && r.activePage.isSome
      && (if r.commitPending then deadlineWf d r.deadlineRemaining else r.deadlineRemaining.isNone)
      && r.frame.wf d
  | .retiring, some d =>
    d.legal && r.staged.length ≤ 16 && r.stagedPage.isSome && r.active.length ≤ 16 && r.activePage.isSome
      && !r.commitPending && deadlineWf d r.deadlineRemaining && r.frame.wf d
  | _, none => false

/-- Every surface record holds what its state says, and the clock that frame times are latched from is valid (R1,
R96). -/
abbrev State.TableWf (s : State) : Prop :=
  s.clock.valid = true ∧ ∀ n : SurfaceId, (s.surf n).wf = true

/-- The records on all lists of all surfaces (R38). -/
def State.itemsHeld (s : State) : Nat :=
  (surfaceIds.map fun n => (s.surf n).staged.length + (s.surf n).active.length).sum

/-- The free count and the records on all lists make 96 (R38). -/
abbrev State.PoolBalanced (s : State) : Prop := s.freeCount + s.itemsHeld = 96

/-- The items on all lists of all surfaces that name a slot (R90). -/
def State.namingCount (s : State) (k : SlotId) : Nat :=
  (surfaceIds.map fun n => namesIn k (s.surf n).staged + namesIn k (s.surf n).active).sum

/-- Every reference count is the number of items that name the slot (R90). -/
abbrev State.CountsAgree (s : State) : Prop := ∀ k : SlotId, (s.slot k).refCount = s.namingCount k

/-- The address ranges of two surfaces in LIVE or RETIRING never overlap (R6). -/
abbrev State.RangesDisjoint (s : State) : Prop :=
  ∀ n m : SurfaceId, n ≠ m → (s.surf n).drawing = true →
    ((s.surf n).defn.any fun d => (s.surf m).blocks d) = false

/-- Bypass is never on while a surface that is not VACANT holds a REDACT item, and a VACANT surface holds none
(R134, R55). -/
abbrev State.BypassSafe (s : State) : Prop :=
  s.bypass = true → ∀ n : SurfaceId,
    (s.surf n).staged.any Item.isRedact = false ∧ (s.surf n).active.any Item.isRedact = false

/-! Invariants of the queues -/

/-- A notice queue holds at most 32 notices, at most one LOST notice, always the newest; 32 are there only with one;
a dropped count is 1 to 65535 (R159, R160, R161). -/
def noticesWf (q : List Notice) : Bool :=
  (q.dropLast.all fun n => !n.isLost)
    && (match q.getLast? with
        | some (.lost d) => q.length ≤ 32 && 1 ≤ d && d ≤ 65535
        | _ => q.length ≤ 31)

/-- The sequence numbers of the entries are consecutive from `a` on (R143). -/
def seqsFrom (a : SeqNumber) : List QueueEntry → Bool
  | [] => true
  | e :: es => e.seq == a && seqsFrom (a + 1) es

/-- The ISSUED entries are the oldest ones (R143). -/
def issuedFirst : List QueueEntry → Bool
  | [] => true
  | e :: es => if e.state = .issued then issuedFirst es else es.all fun e => e.state == .queued

/-- The posted write queue holds at most 16 entries, their sequence numbers consecutive up to the next one, the
oldest ones ISSUED and at most 4 of them (R143); a drain mark is the number of an entry in it (R151, R152). -/
abbrev State.QueueWf (s : State) : Prop :=
  s.queue.length ≤ 16 ∧ seqsFrom (s.nextSeq - BitVec.ofNat 32 s.queue.length) s.queue = true ∧
    issuedFirst s.queue = true ∧ s.issuedCount ≤ 4 ∧
    (s.drain.all fun d => s.queue.any fun e => e.seq == d.mark) = true

/-- The held-read list holds at most 4 reads and the answer order list at most 32 places, and the held reads are, in
order, the reads whose places say so (R147, R150). -/
abbrev State.ListsWf (s : State) : Prop :=
  s.held.length ≤ 4 ∧ s.places.length ≤ 32 ∧
    (s.places.filter fun p => p.state == .held).map Place.tag = s.held.map fun h => h.req.tag

/-- The tag's front answer is not ready: it waits for a read. -/
def State.frontWaits (s : State) (t : Tag) : Bool := (popReady t s.places).isNone

/-- The oldest QUEUED entry can be issued (R143). -/
def State.canIssue (s : State) : Bool :=
  match splitQueued s.queue with
  | none => false
  | some (_, e, _) => decide (s.issuedCount < 4) && !s.heldBack e

/-- The oldest held read can be released (R147). -/
def State.canRelease (s : State) : Bool :=
  match s.held with
  | [] => false
  | h :: _ => s.heldReady h

/-- The request at the head of the upstream port can be taken (R139). -/
def State.canTakeHead (s : State) : Bool :=
  match s.upstream with
  | [] => false
  | q :: _ => s.canTake q

/-- Nothing that happens at the first moment of its condition is left to happen: no release, no issue, no waiting
request to take, no answer to return, no drain to meet (R139, R143, R147, R149, R152). -/
abbrev State.Settled (s : State) : Prop :=
  s.resetAsserted = true ∨
    (s.canRelease = false ∧ s.canIssue = false ∧ s.canTakeHead = false ∧ (∀ t : Tag, s.frontWaits t = true) ∧
      (s.drain.all fun d => s.drainWaits d) = true)

/-- While RESETN is asserted the core stands in the hard-reset state (R186). -/
abbrev State.ResetStands (s : State) : Prop :=
  s.resetAsserted = true →
    s = { State.reset with
          resetAsserted := true
          linkAbandoned := s.linkAbandoned
          upstream := s.upstream
          pending := s.pending }

/-- The page headers keep every cell they can reach within the page, and a slot holds at most 32 codes (R80, R88). -/
abbrev State.StoresWf (s : State) : Prop :=
  (∀ p : Page, (s.page p).header.digitBase ≤ 118 ∧ (s.page p).header.amGlyph ≤ 127 ∧
      (s.page p).header.pmGlyph ≤ 127 ∧ (s.page p).header.weekdayBase ≤ 121) ∧
    ∀ k : SlotId, (s.slot k).codes.length ≤ 32

/-! Traffic in order -/

/-- The writes among the requests presented downstream. -/
def writesOf (out : List DownstreamRequest) : List DownstreamRequest :=
  out.filter fun q => match q with
    | .write _ _ _ => true
    | .read _ _ _ => false

/-- The writes of the QUEUED entries, as they will be presented downstream. -/
def queuedWrites (q : List QueueEntry) : List DownstreamRequest :=
  (q.filter fun e => e.state == .queued).map fun e => .write e.addr e.lanes e.tag

/-- Every write taken, in the order it was or will be presented: those presented, then those QUEUED (R143). -/
def State.writeOrder (s : State) : List DownstreamRequest := writesOf s.presented ++ queuedWrites s.queue

/-! What a statement says about the state after a command -/

/-- RESETN is not asserted. -/
abbrev State.Released (s : State) : Prop := s.resetAsserted = false

/-- `t` differs from `s` at most in the surface table, the pool and the string store. -/
abbrev State.OnlyTable (s t : State) : Prop :=
  t = { s with
        surfaces := t.surfaces
        freeCount := t.freeCount
        slots := t.slots }

/-- `t` holds the record `r` for surface `n` and the records of `s` for the others. -/
abbrev State.TableAfter (s t : State) (n : SurfaceId) (r : Surface) : Prop :=
  t.surf n = r ∧ ∀ m : SurfaceId, m ≠ n → t.surf m = s.surf m

/-- From `s` to `t` the records of `freed` went back to the pool and records for `taken` were allocated: the free
count and every reference count moved accordingly, and no slot's codes changed (R39, R40, R44). -/
abbrev State.CountsMoved (s t : State) (freed taken : List Item) : Prop :=
  t.freeCount = s.freeCount + freed.length - taken.length ∧
    ∀ k : SlotId, t.slot k = ⟨(s.slot k).codes, (s.slot k).refCount - namesIn k freed + namesIn k taken⟩

/-- The command numbers of the catalogue that name a surface in their first payload byte (R2). -/
def surfaceRows : List Byte :=
  [0x10, 0x11, 0x12, 0x13, 0x14, 0x20, 0x21, 0x22, 0x23, 0x24, 0x25, 0x26, 0x27, 0x30, 0x31]

/-- The command numbers of the staging commands (R47). -/
def stagingRows : List Byte := [0x20, 0x21, 0x22, 0x23, 0x24, 0x25, 0x26]

/-- Two definitions have buffers that each begin below the end of the other (R11). -/
abbrev SurfaceDef.Overlap (d e : SurfaceDef) : Prop :=
  ∃ i j : Nat, i < d.bufferCount ∧ j < e.bufferCount ∧
    d.base + i * d.stride < e.base + j * e.stride + e.pitch * e.height ∧
    e.base + j * e.stride < d.base + i * d.stride + d.pitch * d.height

/-- Surface `m` is LIVE or RETIRING and its address range overlaps the definition (R11). -/
abbrev State.OverlapsWith (s : State) (d : SurfaceDef) (m : SurfaceId) : Prop :=
  ((s.surf m).state = .live ∨ (s.surf m).state = .retiring) ∧ ∃ e, (s.surf m).defn = some e ∧ d.Overlap e

/-- Staging commands are taken on the surface: it is DEFINED, or LIVE with no commit pending (R47). -/
abbrev Surface.StagingOpen (r : Surface) : Prop :=
  r.state = .defined ∨ (r.state = .live ∧ r.commitPending = false)

/-- The page is the active page of a LIVE or RETIRING surface, or the staged page of a surface with a commit pending
(R82). -/
abbrev State.PageHeld (s : State) (p : Page) : Prop :=
  ∃ n : SurfaceId,
    (((s.surf n).state = .live ∨ (s.surf n).state = .retiring) ∧ (s.surf n).activePage = some p) ∨
      ((s.surf n).commitPending = true ∧ (s.surf n).stagedPage = some p)

/-- Some surface that is not VACANT has a REDACT item on its staged or its active list (R153). -/
abbrev State.RedactHeld (s : State) : Prop :=
  ∃ n : SurfaceId, (s.surf n).state ≠ .vacant ∧
    ∃ b : RectItem, Item.redact b ∈ (s.surf n).staged ∨ Item.redact b ∈ (s.surf n).active

/-- The values of an item lie in the ranges of its kind (R42). -/
def Item.legal : Item → Bool
  | .text t =>
    t.x ≤ 4095 && t.y ≤ 4095 && 1 ≤ t.scaleX && t.scaleX ≤ 4 && 1 ≤ t.scaleY && t.scaleY ≤ 4 && t.spacing ≤ 7
  | .box r _ => r.x ≤ 4095 && r.y ≤ 4095 && 1 ≤ r.w && r.w ≤ 4096 && 1 ≤ r.h && r.h ≤ 4096
  | .redact r => r.x ≤ 4095 && r.y ≤ 4095 && 1 ≤ r.w && r.w ≤ 4096 && 1 ≤ r.h && r.h ≤ 4096

/-! A tick on one surface (R15, R65, R66) -/

/-- The deadline of a surface expires at the next tick: it is LIVE with a commit pending, or RETIRING, and its
deadline remaining is at its last count. -/
def Surface.expiresNext (r : Surface) : Bool :=
  ((r.state == .live && r.commitPending) || r.state == .retiring)
    && (match r.deadlineRemaining with
        | some d => d ≤ 1
        | none => false)

/-- The surface record after a tick. -/
def Surface.ticked (r : Surface) : Surface :=
  if r.expiresNext then
    if r.state = .live then
      { r with
        active := r.staged, staged := [], activePage := r.stagedPage, commitPending := false,
        deadlineRemaining := none, lastCommitFrame := some r.frame.number }
    else { r with state := .defined, active := [], activePage := none, deadlineRemaining := none }
  else if (r.state = .live ∧ r.commitPending = true) ∨ r.state = .retiring then
    { r with deadlineRemaining := r.deadlineRemaining.map fun d => d - 1 }
  else r

/-- The notice of the expiry that a tick brings about on surface `n`, if there is one. -/
def Surface.tickNotice (n : SurfaceId) (r : Surface) : List Notice :=
  if r.expiresNext then
    if r.state = .live then [.commitForced n r.frame.number] else [.retired n r.frame.number true]
  else []

/-- The items that a tick frees from the active list of a surface. -/
def Surface.tickFrees (r : Surface) : List Item := if r.expiresNext then r.active else []

/-- The notice of a tick on the clock: CLOCK_END when it stops a RUNNING clock at the last value (R99). -/
def State.clockNotice (s : State) : List Notice :=
  if s.clockState = .running ∧ s.clock = .last then [.clockEnd] else []

/-- Notices posted one after another (R163). -/
def postAll (q : List Notice) (ns : List Notice) : List Notice := ns.foldl postTo q

/-! Portions of a write (R6 to R8, R22, R23) -/

/-- Every byte of the write lies on buffer `k` of surface `n`, which is LIVE or RETIRING with the definition `d`. -/
abbrev State.WriteOn (s : State) (w : WriteRequest) (n : SurfaceId) (d : SurfaceDef) (k : BufferId) : Prop :=
  ((s.surf n).state = .live ∨ (s.surf n).state = .retiring) ∧ (s.surf n).defn = some d ∧ k.val < d.bufferCount ∧
    d.base + k.val * d.stride ≤ w.addr.toNat ∧
    w.addr.toNat + w.lanes.length ≤ d.base + k.val * d.stride + d.pitch * d.height

/-- The offset of a portion's first byte in buffer `k` (R7). -/
def Portion.offset (p : Portion) (d : SurfaceDef) (k : BufferId) : Nat := p.start - (d.base + k.val * d.stride)

/-- The lowest row of a portion on buffer `k` (R8). -/
def Portion.lowRow (p : Portion) (d : SurfaceDef) (k : BufferId) : Nat := p.offset d k / d.pitch

/-- The highest row of a portion on buffer `k` (R8). -/
def Portion.highRow (p : Portion) (d : SurfaceDef) (k : BufferId) : Nat :=
  (p.offset d k + p.lanes.length - 1) / d.pitch

/-- A portion on buffer `k` starts a frame: first frame, buffer change or rewind (R23). -/
abbrev FrameRecord.Starts (fr : FrameRecord) (d : SurfaceDef) (k : BufferId) (rLow : Nat) : Prop :=
  fr.currentBuffer = none ∨ (∃ b, fr.currentBuffer = some b ∧ b ≠ k) ∨
    (fr.currentBuffer = some k ∧ rLow + d.rewindTolerance < fr.highWater)

/-- The portion is tracked on buffer `k` of surface `n`, whose definition is `d`: it lies there, the surface is LIVE or
RETIRING, and one of its bytes is enabled (R22). -/
abbrev State.Tracks (s : State) (p : Portion) (n : SurfaceId) (k : BufferId) (d : SurfaceDef) : Prop :=
  p.target = some ⟨n, k⟩ ∧ (s.surf n).defn = some d ∧
    ((s.surf n).state = .live ∨ (s.surf n).state = .retiring) ∧ ∃ l ∈ p.lanes, l.enabled = true

/-! What one event of the pass-through ports performs (R139, R143, R147) -/

/-- The first place of the tag whose read is held now awaits its response; every other place is as before (R147,
R150). -/
def forwardFirst (t : Tag) : List Place → List Place
  | [] => []
  | p :: ps => if p = ⟨t, .held⟩ then ⟨t, .forwarded⟩ :: ps else p :: forwardFirst t ps

/-- The answer order list after the release of held reads, oldest first. -/
def forwardAll (released : List HeldRead) (ps : List Place) : List Place :=
  released.foldl (fun ps h => forwardFirst h.req.tag ps) ps

/-- The queue after its `k` oldest QUEUED entries have become ISSUED. -/
def markIssued : Nat → List QueueEntry → List QueueEntry
  | _, [] => []
  | 0, es => es
  | k + 1, e :: es =>
    if e.state = .queued then { e with state := .issued } :: markIssued k es else e :: markIssued (k + 1) es

/-- A held read as it is presented downstream (R148). -/
def HeldRead.presentedAs (h : HeldRead) : DownstreamRequest := .read h.req.addr h.req.length h.req.tag

/-- The state after the requests `taken` have been taken one after another, each followed by the releases and issues
that it makes possible (R139, R143, R147). -/
def State.afterTaking (s : State) (taken : List UpstreamRequest) : State :=
  taken.foldl (fun u q => (u.takeRequest q).advance) s

/-- `t` is `s` after its waiting requests have been taken in arrival order, each when its condition to wait does not
hold, up to the first that must wait (R139). -/
abbrev State.TakesWaiting (s t : State) : Prop :=
  ∃ taken : List UpstreamRequest,
    s.upstream = taken ++ t.upstream ∧
      (∀ before q after, taken = before ++ q :: after → (s.afterTaking before).canTake q = true) ∧
      t.canTakeHead = false ∧ t = { s.afterTaking taken with upstream := t.upstream }

/-- The component byte of a colour that the format reads for the byte at column byte `colByte` (R118, R126). -/
def SurfaceDef.colourPlace (d : SurfaceDef) (colByte : Nat) : Nat :=
  match d.format with
  | .y8 => 0
  | .xrgb8888 => colByte % 4
  | .rgb565 => colByte % 2
  | .yuyv => if colByte % 2 = 0 then 0 else if colByte % 4 = 1 then 1 else 2

/-- A REDACT rectangle covers the byte at column byte `colByte` of row `r`: it covers the byte's pixel, or, for a U or
V byte, either pixel of its pair (R122, R133). -/
def RectItem.coversByte (b : RectItem) (d : SurfaceDef) (colByte r : Nat) : Bool :=
  let c := colByte / d.format.bpp
  match d.format with
  | .yuyv =>
    if colByte % 2 = 0 then b.covers c r else b.covers (2 * (c / 2)) r || b.covers (2 * (c / 2) + 1) r
  | .y8 => b.covers c r
  | .rgb565 => b.covers c r
  | .xrgb8888 => b.covers c r

end Sys2Proof.Machine
end

