-- ==== Sys2Proof/Certificates/Slice0/Obligations.lean ====
section
/-! DEFINITION. The statements about the model, for the provers. Each names the command or the part of the state it is
about, and its docstring the rules it formalises; a clause that rests on a choice of the model names its log entry. -/

open Sys2Proof Sys2Proof.Machine

/-! ### The queue of commands and the configuration port -/

/-- A step takes the command at the front of the queue and executes it on the rest; with none waiting the block idles
(the model's choice, log 3). -/
def Obligations.StepRunsFrontCommand : Prop :=
  (∀ (s : State) (c : Instr) (rest : List Instr),
      s.pending = c :: rest → step s = exec c { s with pending := rest }) ∧
    ∀ s : State, s.pending = [] → step s = .next s

/-- Every command answers a next state, in every state, and leaves the commands that wait alone. For rows that no
transaction spells this is the model's choice (log 12). -/
def Obligations.CommandsAnswerNext : Prop :=
  ∀ (c : Instr) (s : State), ∃ t, exec c s = .next t ∧ t.pending = s.pending

/-- The transaction of every well-formed row of the configuration port decodes to that row with every operand, and so do
its serial bits, most significant first; every transaction decodes to a well-formed row that stands for exactly its
bytes and the bits of its incomplete last byte (R171, R173, R174, R180). The pin edges of a transaction in SPI mode 0,
whatever edges of CFG_SCK come before and after it, are that one row, and CFG_MISO carries at each sampling edge the
next bit of the result frame, then those of 00H bytes (R170). That a row is one whole transaction, and that the empty one
is carried by the row of bad frames, is the model's reading (log 4). -/
def Obligations.TransactionsDecodeAndReencode : Prop :=
  ((∀ (i : Instr) (bytes : List Byte) (tail : List Bool),
        i.wf = true → encodeTransaction i = some (bytes, tail) → decodeTransaction bytes tail = i) ∧
      ∀ (bytes : List Byte) (tail : List Bool),
        tail.length < 8 → decodeTransactionBits (bitsOfBytes bytes ++ tail) = decodeTransaction bytes tail) ∧
    (∀ (bytes : List Byte) (tail : List Bool), tail.length < 8 →
      (decodeTransaction bytes tail).wf = true ∧
        encodeTransaction (decodeTransaction bytes tail) = some (bytes, tail)) ∧
    ∀ (bits out : List Bool) (before after : List LinkEdge),
      (∀ e ∈ before ++ after, e = .sckFall ∨ ∃ b, e = .sckRise b) →
        Link.idle.rows (before ++ transactionEdges bits ++ after) = [decodeTransactionBits bits] ∧
          Link.idle.samples out (before ++ transactionEdges bits ++ after)
            = (out ++ List.replicate bits.length false).take bits.length

/-- The frames that R172 gives for reference, written out byte by byte, are those commands; one wrong CRC bit makes a
bad frame. -/
def Obligations.ReferenceFramesDecode : Prop :=
  decodeTransaction [0x00, 0x00, 0x00, 0x00] [] = .nop ⟨0x00, [], [], []⟩ ∧
    decodeTransaction [0x62, 0x01, 0x00, 0x06] [] = .readStatus ⟨0x01, [], [], []⟩ ∧
    decodeTransaction [0x62, 0x01, 0x00, 0x07] [] = .badFrame ⟨[0x62, 0x01, 0x00, 0x07], []⟩ ∧
    decodeTransaction [0x62, 0x01, 0x41] [] = .badFrame ⟨[0x62, 0x01, 0x41], []⟩

/-- R173: which frames are bad, and what one does: BAD_FRAME with the echoes that were received, and nothing else of
the core changes (the transaction also carries the old result out, R170). -/
def Obligations.BadFrameRecorded : Prop :=
  (∀ bytes : List Byte,
      isBadFrame bytes = true ↔
        bytes ≠ [] ∧
          (bytes.length < 3 ∨ 64 < (bytes.getD 2 0).toNat ∨ bytes.length < 4 + (bytes.getD 2 0).toNat ∨
            bytes.getD (3 + (bytes.getD 2 0).toNat) 0 ≠ crc (bytes.take (3 + (bytes.getD 2 0).toNat)))) ∧
    ∀ (s : State) (number : Byte) (rest : List Byte) (tail : List Bool),
      s.Released → isBadFrame (number :: rest) = true →
        exec (.badFrame ⟨number :: rest, tail⟩) s = .next
          { s with
            misoOut := shiftedOut s.record (8 * (rest.length + 1) + tail.length)
            record := ⟨.badFrame, rest.getD 0 0, number, []⟩
            rxFrame := []
            linkAbandoned := false }

/-- What the last-result record becomes at the end of a transaction whose command is not executed (R174, R175): a good
NOP leaves it as it was and carries it out, and so does an empty transaction (R171; log 4); a known command with another
payload length than its row's gives BAD_ARG; a command number outside the catalogue gives BAD_COMMAND; nothing else of
the core changes. -/
def Obligations.RecordFollowsTheFrame : Prop :=
  (∀ (s : State) (f : CommandFrame),
      s.Released → f.payload = [] →
        exec (.nop f) s = .next
          { s with
            misoOut := shiftedOut s.record (frameBits 0x00 f).length
            rxFrame := []
            linkAbandoned := false }) ∧
    (∀ (s : State) (tail : List Bool),
      s.Released →
        exec (.badFrame ⟨[], tail⟩) s = .next
          { s with
            misoOut := shiftedOut s.record tail.length
            rxFrame := []
            linkAbandoned := false }) ∧
    (∀ (s : State) (number : Byte) (row : CommandFrame → Instr) (f : CommandFrame),
        s.Released → catalogue number = some row → payloadFits number f = false →
          exec (row f) s = .next (replied s number f .badArg [] s)) ∧
    ∀ (s : State) (number : Byte) (f : CommandFrame),
      s.Released → (Instr.badCommand number f).wf = true →
        exec (.badCommand number f) s = .next (replied s number f .badCommand [] s)

/-- R2: every command that names a surface gives BAD_ARG for a surface number above 7, before any other check of its
rule, and changes no state. -/
def Obligations.SurfaceNumberAboveSevenRefused : Prop :=
  ∀ (s : State) (number : Byte) (row : CommandFrame → Instr) (f : CommandFrame),
    s.Released → number ∈ surfaceRows → catalogue number = some row → payloadFits number f = true →
      7 < (f.payload.getD 0 0).toNat → exec (row f) s = .next (replied s number f .badArg [] s)

/-- A refused command changes nothing but the last-result record: of every catalogue command other than NOP, a result
code other than OK leaves the state as it was (R39, R48, R83, R92). -/
def Obligations.RefusalsChangeNothing : Prop :=
  ∀ (s t : State) (number : Byte) (row : CommandFrame → Instr) (f : CommandFrame),
    s.Released → number ≠ 0x00 → catalogue number = some row → exec (row f) s = .next t →
      t.record.code ≠ .ok → t = replied s number f t.record.code t.record.payload s

/-! ### Resets -/

/-- R176: SOFT RESET makes every surface VACANT, frees the pool, sets every reference count to 0, clears the drain
mark, bypass and the notices, and keeps the slots' codes, the glyph pages, the clock, the queue, the lists and the next
sequence number. -/
def Obligations.SoftResetEffects : Prop :=
  ∀ (s : State) (f : CommandFrame),
    s.Released →
      (f.payload ≠ [] → exec (.softReset f) s = .next (replied s 0x01 f .badArg [] s)) ∧
        (f.payload = [] → ∃ t,
        exec (.softReset f) s = .next (replied s 0x01 f .ok [] t) ∧
          (∀ n : SurfaceId, t.surf n = ⟨.vacant, none, [], none, [], none, false, none, none, ⟨none, 0, 0, none⟩⟩) ∧
          (∀ k : SlotId, t.slot k = ⟨(s.slot k).codes, 0⟩) ∧ t.attn = false ∧
          t = { s with
                surfaces := t.surfaces, freeCount := 96, slots := t.slots, drain := none, bypass := false,
                notices := [] })

/-- HARD_RESET puts every block into its hard-reset state (R18, R41, R81, R91, R96, R155, R167, R175, R178); the
requests that wait at the upstream port stay there (R155). That the records of the output ports are cleared is the
model's choice (log 7), and that RESETN is asserted afterwards is how the model divides a reset (log 6). -/
def Obligations.HardResetEffects : Prop :=
  ∀ (s : State) (received : Option (List Byte)),
    ∃ t,
      exec (.hardReset received) s = .next t ∧
        (∀ n : SurfaceId, t.surf n = ⟨.vacant, none, [], none, [], none, false, none, none, ⟨none, 0, 0, none⟩⟩) ∧
        t.freeCount = 96 ∧
        (∀ (p : Page) (c : Fin 128) (i : Fin 240), ((t.page p).cells[c])[i] = Shade.clear) ∧
        (∀ p : Page, (t.page p).header = ⟨0, 0, 0, 0⟩) ∧ (∀ k : SlotId, t.slot k = ⟨[], 0⟩) ∧
        t.clock = ⟨2000, 1, 1, 0, 0, 0, 0⟩ ∧ t.clockState = .stopped ∧ t.queue = [] ∧ t.nextSeq = 0 ∧ t.held = [] ∧
        t.places = [] ∧ t.drain = none ∧ t.bypass = false ∧ t.notices = [] ∧ t.attn = false ∧
        t.record = ⟨.ok, 0, 0, []⟩ ∧ t.rxFrame = [] ∧ t.linkAbandoned = received.isSome ∧ t.resetAsserted = true ∧
        t.upstream = s.upstream ∧ t.presented = [] ∧ t.answers = [] ∧ t.misoOut = []

/-- R186: while RESETN is asserted the core takes no configuration transaction, no tick and no return, presents and
answers nothing, and lets upstream requests wait; it stands in the hard-reset state, and every step keeps it there. That
a command is consumed without effect is the model's reading (log 15), as are the two events of a reset (log 6); that the
records of the output ports stand empty is its choice (log 7). -/
def Obligations.ResetHoldsTheCore : Prop :=
  (∀ (s : State) (c : Instr),
      s.resetAsserted = true →
        match c with
        | .hardReset _ => True
        | .resetnRelease _ => True
        | .upstreamWrite w => exec c s = .next { s with upstream := s.upstream ++ [.write w] }
        | .upstreamRead r => exec c s = .next { s with upstream := s.upstream ++ [.read r] }
        | _ => exec c s = .next s) ∧
    ∀ s t : State, s.ResetStands → step s = .next t → t.ResetStands

/-- R187: at the release the core takes the waiting requests in their arrival order, the head first, each with the effect
of its taking, up to the first that must wait (R139); a write among them lands on no surface and becomes entry 0. Whether
CFG_CSN is low then is kept for R178 (log 6); that the release takes, answers and issues in one event is the model's
reading (logs 1, 2). -/
def Obligations.ReleaseTakesWaitingRequests : Prop :=
  ∀ (s : State) (csnLow : Bool),
    s.resetAsserted = true → s.ResetStands →
      let released : State := { s with resetAsserted := false, linkAbandoned := csnLow }
      ∃ t,
        exec (.resetnRelease csnLow) s = .next t ∧ t.resetAsserted = false ∧ t.linkAbandoned = csnLow ∧ t.Settled ∧
          released.TakesWaiting t ∧
          (s.upstream = [] → t = { s with resetAsserted := false, linkAbandoned := csnLow }) ∧
          ∀ w : WriteRequest,
            s.upstream = [.write w] → malformedWrite w = false → anyEnabled w.lanes = true →
              t = { s with
                    resetAsserted := false, linkAbandoned := csnLow, upstream := [],
                    queue := [⟨0, w.addr, w.lanes, w.tag, none, .issued⟩], nextSeq := 1,
                    presented := [.write w.addr w.lanes w.tag], answers := [⟨w.tag, .posted⟩] }

/-! ### Surfaces -/

/-- R5: DEFINE SURFACE by the state of the surface. -/
def Obligations.DefineSurfaceByState : Prop :=
  ∀ (s : State) (f : CommandFrame) (n : SurfaceId) (desc : List Byte),
    s.Released → f.payload = byteOf n.val :: desc → desc.length = 23 →
      (((s.surf n).state = .live ∨ (s.surf n).state = .retiring) →
          exec (.defineSurface f) s = .next (replied s 0x10 f .state [] s)) ∧
        (((s.surf n).state = .vacant ∨ (s.surf n).state = .defined) → surfaceDefOf desc = none →
          exec (.defineSurface f) s = .next (replied s 0x10 f .badArg [] s)) ∧
        (∀ d, (s.surf n).state = .vacant → surfaceDefOf desc = some d →
          exec (.defineSurface f) s = .next (replied s 0x10 f .ok []
            (s.setSurf n ⟨.defined, some d, [], some .a, [], none, false, none, none, ⟨none, 0, 0, none⟩⟩))) ∧
        ∀ d, (s.surf n).state = .defined → surfaceDefOf desc = some d →
          exec (.defineSurface f) s = .next (replied s 0x10 f .ok [] (s.setSurf n { s.surf n with defn := some d }))

/-- R3, R4: which surface definitions pass the checks, and what the record takes; a format or a switch outside its
enumeration does not pass (R179). -/
def Obligations.SurfaceDefinitionChecks : Prop :=
  (∀ d : SurfaceDef,
      d.base < 2 ^ 40 → d.pitch < 2 ^ 32 → d.width < 2 ^ 16 → d.height < 2 ^ 16 → d.bufferCount < 2 ^ 8 →
      d.stride < 2 ^ 32 → d.rewindTolerance < 2 ^ 8 → d.deadline < 2 ^ 16 →
        let stride := if d.bufferCount = 1 then d.pitch * d.height else d.stride
        ((surfaceDefOf (surfaceDefBytes d)).isSome = true ↔
            (d.base ≤ 0xFFFFFFFC0 ∧ d.base % 64 = 0 ∧ 64 ≤ d.pitch ∧ d.pitch ≤ 65536 ∧ d.pitch % 64 = 0 ∧
              16 ≤ d.width ∧ d.width ≤ 4096 ∧ 16 ≤ d.height ∧ d.height ≤ 4096 ∧
              1 ≤ d.bufferCount ∧ d.bufferCount ≤ 4 ∧
              (2 ≤ d.bufferCount → 4096 ≤ d.stride ∧ d.stride ≤ 268435456 ∧ d.stride % 4096 = 0 ∧
                d.pitch * d.height ≤ d.stride) ∧
              d.width * d.format.bpp ≤ d.pitch ∧ (d.format = .yuyv → d.width % 2 = 0) ∧
              d.base + (d.bufferCount - 1) * stride + d.pitch * d.height ≤ 0x1000000000)) ∧
          ∀ e, surfaceDefOf (surfaceDefBytes d) = some e → e = { d with stride := stride }) ∧
    ∀ desc : List Byte,
      desc.length = 23 → 3 < (desc.getD 13 0).toNat ∨ 1 < (desc.getD 22 0).toNat → surfaceDefOf desc = none

/-- R10, R11, R12: ACTIVATE SURFACE: the state check, the overlap check with the lowest-numbered surface it finds, and
the record of the activated surface. -/
def Obligations.ActivateSurfaceChecksAndSets : Prop :=
  ∀ (s : State) (f : CommandFrame) (n : SurfaceId),
    s.Released → f.payload = [byteOf n.val] →
      ((s.surf n).state ≠ .defined → exec (.activateSurface f) s = .next (replied s 0x11 f .state [] s)) ∧
        ∀ d, (s.surf n).state = .defined → (s.surf n).defn = some d →
          (∀ m : SurfaceId, m ≠ n → s.OverlapsWith d m → (∀ l : SurfaceId, l < m → l ≠ n → ¬s.OverlapsWith d l) →
              exec (.activateSurface f) s = .next (replied s 0x11 f .overlap [byteOf m.val] s)) ∧
            ((∀ m : SurfaceId, m ≠ n → ¬s.OverlapsWith d m) →
              exec (.activateSurface f) s = .next (replied s 0x11 f .ok []
                (s.setSurf n
                  { state := .live, defn := some d, staged := [], stagedPage := (s.surf n).stagedPage,
                    active := (s.surf n).staged, activePage := (s.surf n).stagedPage, commitPending := false,
                    deadlineRemaining := none, lastCommitFrame := none, frame := ⟨none, 0, 0, none⟩ })))

/-- R13, R16: RETIRE SURFACE cancels a pending commit and arms the deadline; RELEASE SURFACE frees the staged items and
makes the record VACANT; each gives STATE in any other state. -/
def Obligations.RetireAndReleaseSurface : Prop :=
  (∀ (s : State) (f : CommandFrame) (n : SurfaceId),
      s.Released → f.payload = [byteOf n.val] →
        ((s.surf n).state ≠ .live → exec (.retireSurface f) s = .next (replied s 0x12 f .state [] s)) ∧
          ∀ d, (s.surf n).state = .live → (s.surf n).defn = some d →
            exec (.retireSurface f) s = .next (replied s 0x12 f .ok []
              (s.setSurf n
                { s.surf n with
                  state := .retiring
                  commitPending := false
                  deadlineRemaining := if d.deadline = 0 then none else some d.deadline }))) ∧
    ∀ (s : State) (f : CommandFrame) (n : SurfaceId),
      s.Released → f.payload = [byteOf n.val] →
        ((s.surf n).state ≠ .defined → exec (.releaseSurface f) s = .next (replied s 0x13 f .state [] s)) ∧
          ((s.surf n).state = .defined →
            ∃ t,
              exec (.releaseSurface f) s = .next (replied s 0x13 f .ok [] t) ∧ s.OnlyTable t ∧
                s.CountsMoved t (s.surf n).staged [] ∧
                s.TableAfter t n ⟨.vacant, none, [], none, [], none, false, none, none, ⟨none, 0, 0, none⟩⟩)

/-- R17, R182: READ SURFACE gives OK in every state, changes nothing, and returns the record in the payload's order,
57 bytes of it unless the surface is VACANT. -/
def Obligations.ReadSurfaceReportsRecord : Prop :=
  ∀ (s : State) (f : CommandFrame) (n : SurfaceId),
    s.Released → f.payload = [byteOf n.val] →
      ((s.surf n).state = .vacant → exec (.readSurface f) s = .next (replied s 0x14 f .ok [0x00] s)) ∧
        ∀ d, (s.surf n).state ≠ .vacant → (s.surf n).defn = some d →
          ∃ payload,
            exec (.readSurface f) s = .next (replied s 0x14 f .ok payload s) ∧ payload.length = 57 ∧
              payload =
                [(s.surf n).state.byte] ++ surfaceDefBytes d
                  ++ optBytes 1 ((s.surf n).frame.currentBuffer.map Fin.val) ++ beBytes 2 (s.surf n).frame.highWater
                  ++ beBytes 4 (s.surf n).frame.number.toNat ++ optClock (s.surf n).frame.time
                  ++ [flagByte (s.surf n).commitPending] ++ optBytes 2 (s.surf n).deadlineRemaining
                  ++ optBytes 4 ((s.surf n).lastCommitFrame.map BitVec.toNat)
                  ++ [byteOf (s.surf n).staged.length, byteOf (s.surf n).active.length]
                  ++ optPage (s.surf n).stagedPage ++ optPage (s.surf n).activePage

/-! ### Items and staged lists -/

/-- R47: every staging command gives STATE on a VACANT or RETIRING surface and LOCKED while a commit is pending, before
it looks at its other arguments; CLONE ACTIVE gives STATE on a DEFINED surface too. -/
def Obligations.StagingRefusedByState : Prop :=
  ∀ (s : State) (number : Byte) (row : CommandFrame → Instr) (f : CommandFrame) (n : SurfaceId) (rest : List Byte),
    s.Released → number ∈ stagingRows → catalogue number = some row → payloadFits number f = true →
    f.payload = byteOf n.val :: rest →
      (((s.surf n).state = .vacant ∨ (s.surf n).state = .retiring) →
          exec (row f) s = .next (replied s number f .state [] s)) ∧
        ((s.surf n).state = .live → (s.surf n).commitPending = true →
          exec (row f) s = .next (replied s number f .locked [] s)) ∧
        (number = 0x25 → (s.surf n).state = .defined → exec (row f) s = .next (replied s number f .state [] s))

/-- R49 with the order of R48: ADD ITEM. -/
def Obligations.AddItemAppends : Prop :=
  ∀ (s : State) (f : CommandFrame) (n : SurfaceId) (desc : List Byte),
    s.Released → f.payload = byteOf n.val :: desc → desc.length = 27 → (s.surf n).StagingOpen →
      (itemOf desc = none → exec (.addItem f) s = .next (replied s 0x20 f .badArg [] s)) ∧
        ∀ it, itemOf desc = some it →
          (it.isRedact = true → s.bypass = true → exec (.addItem f) s = .next (replied s 0x20 f .locked [] s)) ∧
            ((it.isRedact = false ∨ s.bypass = false) →
              (16 ≤ (s.surf n).staged.length →
                  exec (.addItem f) s = .next (replied s 0x20 f .listFull [] s)) ∧
                ((s.surf n).staged.length < 16 → s.freeCount = 0 →
                  exec (.addItem f) s = .next (replied s 0x20 f .noItem [] s)) ∧
                ((s.surf n).staged.length < 16 → 0 < s.freeCount →
                  ∃ t,
                    exec (.addItem f) s = .next
                        (replied s 0x20 f .ok [byteOf (s.surf n).staged.length, byteOf (s.freeCount - 1)] t) ∧
                      s.OnlyTable t ∧ s.CountsMoved t [] [it] ∧
                      s.TableAfter t n { s.surf n with staged := (s.surf n).staged ++ [it] }))

/-- R50: SET ITEM replaces the contents of the record at a position below the staged count. -/
def Obligations.SetItemReplaces : Prop :=
  ∀ (s : State) (f : CommandFrame) (n : SurfaceId) (pos : Byte) (desc : List Byte),
    s.Released → f.payload = byteOf n.val :: pos :: desc → desc.length = 27 → (s.surf n).StagingOpen →
      ((s.surf n).staged.length ≤ pos.toNat ∨ itemOf desc = none →
          exec (.setItem f) s = .next (replied s 0x21 f .badArg [] s)) ∧
        ∀ old it, (s.surf n).staged[pos.toNat]? = some old → itemOf desc = some it →
          (it.isRedact = true → s.bypass = true → exec (.setItem f) s = .next (replied s 0x21 f .locked [] s)) ∧
            ((it.isRedact = false ∨ s.bypass = false) →
              ∃ t,
                exec (.setItem f) s = .next (replied s 0x21 f .ok [] t) ∧ s.OnlyTable t ∧
                  s.CountsMoved t [old] [it] ∧
                  s.TableAfter t n { s.surf n with staged := (s.surf n).staged.set pos.toNat it })

/-- R51, R53: REMOVE ITEM takes the item at a position off the staged list and frees its record; CLEAR STAGED frees every
staged item and keeps the staged page. -/
def Obligations.RemoveAndClearFree : Prop :=
  (∀ (s : State) (f : CommandFrame) (n : SurfaceId) (pos : Byte),
      s.Released → f.payload = [byteOf n.val, pos] → (s.surf n).StagingOpen →
        ((s.surf n).staged.length ≤ pos.toNat →
            exec (.removeItem f) s = .next (replied s 0x22 f .badArg [] s)) ∧
          ∀ below above it, (s.surf n).staged = below ++ it :: above → below.length = pos.toNat →
            ∃ t,
              exec (.removeItem f) s = .next (replied s 0x22 f .ok [byteOf (s.freeCount + 1)] t) ∧ s.OnlyTable t ∧
                s.CountsMoved t [it] [] ∧ s.TableAfter t n { s.surf n with staged := below ++ above }) ∧
    ∀ (s : State) (f : CommandFrame) (n : SurfaceId),
      s.Released → f.payload = [byteOf n.val] → (s.surf n).StagingOpen →
        ∃ t,
          exec (.clearStaged f) s = .next
              (replied s 0x24 f .ok [byteOf (s.freeCount + (s.surf n).staged.length)] t) ∧
            s.OnlyTable t ∧ s.CountsMoved t (s.surf n).staged [] ∧ s.TableAfter t n { s.surf n with staged := [] }

/-- R52, R56: MOVE ITEM takes the item at position i out and places it at position j, the items between move one position,
and nothing else changes; SELECT PAGE sets the staged page, A for 00H and B for 01H, and gives BAD_ARG for any other
value. -/
def Obligations.MoveItemAndSelectPage : Prop :=
  (∀ (s : State) (f : CommandFrame) (n : SurfaceId) (i j : Byte),
      s.Released → f.payload = [byteOf n.val, i, j] → (s.surf n).StagingOpen →
        ((s.surf n).staged.length ≤ i.toNat ∨ (s.surf n).staged.length ≤ j.toNat →
            exec (.moveItem f) s = .next (replied s 0x23 f .badArg [] s)) ∧
          (i.toNat < (s.surf n).staged.length → j.toNat < (s.surf n).staged.length →
            ∃ moved : List Item,
              exec (.moveItem f) s = .next (replied s 0x23 f .ok [] (s.setSurf n { s.surf n with staged := moved })) ∧
                moved.length = (s.surf n).staged.length ∧
                ∀ k : Nat, moved[k]? =
                  if k = j.toNat then (s.surf n).staged[i.toNat]?
                  else if i.toNat ≤ k ∧ k < j.toNat then (s.surf n).staged[k + 1]?
                  else if j.toNat < k ∧ k ≤ i.toNat then (s.surf n).staged[k - 1]?
                  else (s.surf n).staged[k]?)) ∧
    ∀ (s : State) (f : CommandFrame) (n : SurfaceId) (page : Byte),
      s.Released → f.payload = [byteOf n.val, page] → (s.surf n).StagingOpen →
        (page = 0x00 →
            exec (.selectPage f) s = .next
              (replied s 0x26 f .ok [] (s.setSurf n { s.surf n with stagedPage := some .a }))) ∧
          (page = 0x01 →
            exec (.selectPage f) s = .next
              (replied s 0x26 f .ok [] (s.setSurf n { s.surf n with stagedPage := some .b }))) ∧
          (1 < page.toNat → exec (.selectPage f) s = .next (replied s 0x26 f .badArg [] s))

/-- R54: CLONE ACTIVE on a LIVE surface with no commit pending replaces the staged list by copies of the active list,
or gives NO_ITEM with the records needed and the free count; in every other state it gives STATE, and LOCKED while a
commit is pending. -/
def Obligations.CloneActiveCopies : Prop :=
  ∀ (s : State) (f : CommandFrame) (n : SurfaceId),
    s.Released → f.payload = [byteOf n.val] →
      ((s.surf n).state ≠ .live → exec (.cloneActive f) s = .next (replied s 0x25 f .state [] s)) ∧
        ((s.surf n).state = .live → (s.surf n).commitPending = true →
          exec (.cloneActive f) s = .next (replied s 0x25 f .locked [] s)) ∧
        ((s.surf n).state = .live → (s.surf n).commitPending = false →
          s.freeCount < (s.surf n).active.length - (s.surf n).staged.length →
          exec (.cloneActive f) s = .next (replied s 0x25 f .noItem
            [byteOf ((s.surf n).active.length - (s.surf n).staged.length), byteOf s.freeCount] s)) ∧
        ((s.surf n).state = .live → (s.surf n).commitPending = false →
          (s.surf n).active.length - (s.surf n).staged.length ≤ s.freeCount →
          ∃ t,
            exec (.cloneActive f) s = .next (replied s 0x25 f .ok
                [byteOf (s.surf n).active.length,
                  byteOf (s.freeCount + (s.surf n).staged.length - (s.surf n).active.length)] t) ∧
              s.OnlyTable t ∧ s.CountsMoved t (s.surf n).staged (s.surf n).active ∧
              s.TableAfter t n
                { s.surf n with staged := (s.surf n).active, stagedPage := (s.surf n).activePage })

/-- R57, R43, R181: READ ITEM in every state but VACANT returns the item at a position of either list and changes nothing;
the description it returns is read back as the same item, whatever stands in the bytes of the fields its kind does not
hold; another kind, an absent slot or a value out of range is not read. -/
def Obligations.ItemsReadBack : Prop :=
  (∀ (s : State) (f : CommandFrame) (n : SurfaceId) (sel pos : Byte),
      s.Released → f.payload = [byteOf n.val, sel, pos] →
        ((s.surf n).state = .vacant → exec (.readItem f) s = .next (replied s 0x27 f .state [] s)) ∧
          ((s.surf n).state ≠ .vacant →
            (1 < sel.toNat → exec (.readItem f) s = .next (replied s 0x27 f .badArg [] s)) ∧
              ∀ items : List Item,
                (sel = 0x00 ∧ items = (s.surf n).staged) ∨ (sel = 0x01 ∧ items = (s.surf n).active) →
                  (items.length ≤ pos.toNat → exec (.readItem f) s = .next (replied s 0x27 f .badArg [] s)) ∧
                    ∀ it, items[pos.toNat]? = some it →
                      exec (.readItem f) s = .next (replied s 0x27 f .ok (itemBytes it) s))) ∧
    (∀ it : Item, it.legal = true → (itemBytes it).length = 27 ∧ itemOf (itemBytes it) = some it) ∧
      (∀ (t : TextItem) (extent : List Byte),
          (Item.text t).legal = true → extent.length = 4 →
            itemOf ((itemBytes (.text t)).take 5 ++ extent ++ (itemBytes (.text t)).drop 9) = some (.text t)) ∧
      (∀ (r : RectItem) (bl : Blend) (mid tail : List Byte) (last : Byte),
          mid.length = 5 → tail.length = 8 →
            let lead := beBytes 2 r.x ++ beBytes 2 r.y ++ beBytes 2 r.w ++ beBytes 2 r.h ++ mid
              ++ beBytes 4 r.ink.toNat ++ tail
            ((Item.box r bl).legal = true → itemOf (0x02 :: lead ++ [bl.byte]) = some (.box r bl)) ∧
              ((Item.redact r).legal = true → itemOf (0x03 :: lead ++ [last]) = some (.redact r))) ∧
      (∀ desc : List Byte, (desc.getD 0 0 = 0x00 ∨ 3 < (desc.getD 0 0).toNat) → itemOf desc = none) ∧
    (∀ desc : List Byte,
      (desc.getD 0 0 = 0x01 ∧
          (desc.getD 9 0 ≠ 0x01 ∨ 63 < (desc.getD 10 0).toNat ∨ 1 < (desc.getD 26 0).toNat)) ∨
        (desc.getD 0 0 = 0x02 ∧ 1 < (desc.getD 26 0).toNat) → itemOf desc = none) ∧
      ∀ it : Item,
        it.legal = false →
          (match it with
            | .text t => t.x < 65536 ∧ t.y < 65536 ∧ t.scaleX < 256 ∧ t.scaleY < 256 ∧ t.spacing < 256
            | .box r _ => r.x < 65536 ∧ r.y < 65536 ∧ r.w < 65536 ∧ r.h < 65536
            | .redact r => r.x < 65536 ∧ r.y < 65536 ∧ r.w < 65536 ∧ r.h < 65536) →
            itemOf (itemBytes it) = none

/-! ### The commit protocol -/

/-- R60, R61, R68: COMMIT sets commit pending and arms the deadline on a LIVE surface, and a repeated COMMIT changes
nothing and reports the deadline remaining; CANCEL COMMIT withdraws a pending commit, and without one gives TOO_LATE
with the last commit frame; on a surface that is not LIVE each gives STATE. -/
def Obligations.CommitAndCancel : Prop :=
  (∀ (s : State) (f : CommandFrame) (n : SurfaceId),
      s.Released → f.payload = [byteOf n.val] →
        ((s.surf n).state ≠ .live → exec (.commit f) s = .next (replied s 0x30 f .state [] s)) ∧
          ((s.surf n).state = .live → (s.surf n).commitPending = true →
            exec (.commit f) s = .next (replied s 0x30 f .ok (optBytes 2 (s.surf n).deadlineRemaining) s)) ∧
          ∀ d, (s.surf n).state = .live → (s.surf n).commitPending = false → (s.surf n).defn = some d →
            let armed := if d.deadline = 0 then none else some d.deadline
            exec (.commit f) s = .next (replied s 0x30 f .ok (optBytes 2 armed)
              (s.setSurf n { s.surf n with commitPending := true, deadlineRemaining := armed }))) ∧
    ∀ (s : State) (f : CommandFrame) (n : SurfaceId),
      s.Released → f.payload = [byteOf n.val] →
        ((s.surf n).state ≠ .live → exec (.cancelCommit f) s = .next (replied s 0x31 f .state [] s)) ∧
          ((s.surf n).state = .live → (s.surf n).commitPending = true →
            exec (.cancelCommit f) s = .next (replied s 0x31 f .ok []
              (s.setSurf n { s.surf n with commitPending := false, deadlineRemaining := none }))) ∧
          ((s.surf n).state = .live → (s.surf n).commitPending = false →
            exec (.cancelCommit f) s = .next
              (replied s 0x31 f .tooLate (optBytes 4 ((s.surf n).lastCommitFrame.map BitVec.toNat)) s))

/-- The rows FORCED_COMMIT and FORCED_RETIREMENT, the expiries of R66 and R15, at a deadline remaining of 0 (the tick
that brings it there performs the expiry itself, so that the rows act only there: the model's reading, log 1). On any
other surface they change nothing. -/
def Obligations.ExpiriesForce : Prop :=
  ∀ (s : State) (n : SurfaceId),
    s.Released →
      ((s.surf n).state = .live → (s.surf n).commitPending = true → (s.surf n).deadlineRemaining = some 0 →
          ∃ t,
            exec (.forcedCommit n) s = .next t ∧
              s.TableAfter t n
                { s.surf n with
                  active := (s.surf n).staged, staged := [], activePage := (s.surf n).stagedPage,
                  commitPending := false, deadlineRemaining := none,
                  lastCommitFrame := some (s.surf n).frame.number } ∧
              s.CountsMoved t (s.surf n).active [] ∧
              t = { s with
                    surfaces := t.surfaces, freeCount := t.freeCount, slots := t.slots,
                    notices := postTo s.notices (.commitForced n (s.surf n).frame.number) }) ∧
        ((s.surf n).state = .retiring → (s.surf n).deadlineRemaining = some 0 →
          ∃ t,
            exec (.forcedRetirement n) s = .next t ∧
              s.TableAfter t n
                { s.surf n with state := .defined, active := [], activePage := none, deadlineRemaining := none } ∧
              s.CountsMoved t (s.surf n).active [] ∧
              t = { s with
                    surfaces := t.surfaces, freeCount := t.freeCount, slots := t.slots,
                    notices := postTo s.notices (.retired n (s.surf n).frame.number true) }) ∧
        (¬((s.surf n).state = .live ∧ (s.surf n).commitPending = true ∧ (s.surf n).deadlineRemaining = some 0) →
          exec (.forcedCommit n) s = .next s) ∧
        (¬((s.surf n).state = .retiring ∧ (s.surf n).deadlineRemaining = some 0) →
          exec (.forcedRetirement n) s = .next s)

/-! ### The stores -/

/-- R83, R84: WRITE GLYPH and WRITE PAGE HEADER: BAD_ARG, then IN_USE, then the cell or the header is replaced whole
and everything else is kept. -/
def Obligations.PageWritesReplaceWhole : Prop :=
  (∀ (s : State) (f : CommandFrame) (page code : Byte) (data : List Byte),
      s.Released → f.payload = page :: code :: data → data.length = 60 →
        (1 < page.toNat ∨ 127 < code.toNat →
            exec (.writeGlyph f) s = .next (replied s 0x40 f .badArg [] s)) ∧
          ∀ (p : Page) (c : Fin 128), page = p.byte → code.toNat = c.val →
            (s.PageHeld p → exec (.writeGlyph f) s = .next (replied s 0x40 f .inUse [] s)) ∧
              (¬s.PageHeld p →
                exec (.writeGlyph f) s = .next (replied s 0x40 f .ok []
                  (s.setPage p ⟨(s.page p).cells.set c (cellOfBytes data), (s.page p).header⟩)))) ∧
    ∀ (s : State) (f : CommandFrame) (page db am pm wd : Byte),
      s.Released → f.payload = [page, db, am, pm, wd] →
        (1 < page.toNat ∨ 118 < db.toNat ∨ 127 < am.toNat ∨ 127 < pm.toNat ∨ 121 < wd.toNat →
            exec (.writePageHeader f) s = .next (replied s 0x41 f .badArg [] s)) ∧
          ∀ p : Page, page = p.byte → db.toNat ≤ 118 → am.toNat ≤ 127 → pm.toNat ≤ 127 → wd.toNat ≤ 121 →
            (s.PageHeld p → exec (.writePageHeader f) s = .next (replied s 0x41 f .inUse [] s)) ∧
              (¬s.PageHeld p →
                exec (.writePageHeader f) s = .next (replied s 0x41 f .ok []
                  (s.setPage p ⟨(s.page p).cells, ⟨db.toNat, am.toNat, pm.toNat, wd.toNat⟩⟩)))

/-- R85, R184: READ GLYPH returns a cell's 60 bytes, or the header and the in-use status, and changes nothing; glyph row
r, column c stands in byte 3r + c div 4 of the cell data, column 4i in the two most significant places; every cell
data is legal, and reading a cell back gives the bytes it was written with. -/
def Obligations.GlyphCellsReadBack : Prop :=
  (∀ (s : State) (f : CommandFrame) (page sel : Byte),
      s.Released → f.payload = [page, sel] →
        (1 < page.toNat ∨ (127 < sel.toNat ∧ sel ≠ 0xFF) →
            exec (.readGlyph f) s = .next (replied s 0x42 f .badArg [] s)) ∧
          ∀ p : Page, page = p.byte →
            (∀ c : Fin 128, sel.toNat = c.val →
                exec (.readGlyph f) s = .next (replied s 0x42 f .ok (cellBytes (s.page p).cells[c]) s)) ∧
              ∀ used : Bool, (used = true ↔ s.PageHeld p) → sel = 0xFF →
                exec (.readGlyph f) s = .next (replied s 0x42 f .ok
                  [byteOf (s.page p).header.digitBase, byteOf (s.page p).header.amGlyph,
                    byteOf (s.page p).header.pmGlyph, byteOf (s.page p).header.weekdayBase,
                    if used then 0x01 else 0x00] s)) ∧
    (∀ (data : List Byte) (r : Fin 20) (c : Fin 12),
        data.length = 60 →
          (cellOfBytes data)[12 * r.val + c.val]? =
            some (shadeOf ((data.getD (3 * r.val + c.val / 4) 0).extractLsb' (2 * (3 - c.val % 4)) 2))) ∧
      (∀ data : List Byte, data.length = 60 → cellBytes (cellOfBytes data) = data) ∧
      ∀ cell : GlyphCell, (cellBytes cell).length = 60 ∧ cellOfBytes (cellBytes cell) = cell

/-- R92, R93: WRITE STRING: BAD_ARG, then IN_USE, then the slot's codes are replaced whole; READ STRING returns the
length, the codes and the reference count and changes nothing. -/
def Obligations.StringSlotsWriteAndRead : Prop :=
  (∀ (s : State) (f : CommandFrame) (slot len : Byte) (codes : List Byte),
      s.Released → f.payload = slot :: len :: codes → codes.length = len.toNat →
        (63 < slot.toNat ∨ 32 < len.toNat → exec (.writeString f) s = .next (replied s 0x43 f .badArg [] s)) ∧
          ∀ k : SlotId, slot.toNat = k.val → len.toNat ≤ 32 →
            ((s.slot k).refCount ≠ 0 → exec (.writeString f) s = .next (replied s 0x43 f .inUse [] s)) ∧
              ((s.slot k).refCount = 0 →
                exec (.writeString f) s = .next (replied s 0x43 f .ok [] (s.setSlot k ⟨codes, 0⟩)))) ∧
    ∀ (s : State) (f : CommandFrame) (slot : Byte),
      s.Released → f.payload = [slot] →
        (63 < slot.toNat → exec (.readString f) s = .next (replied s 0x44 f .badArg [] s)) ∧
          ∀ k : SlotId, slot.toNat = k.val →
            exec (.readString f) s = .next (replied s 0x44 f .ok
              (byteOf (s.slot k).codes.length :: (s.slot k).codes ++ [byteOf (s.slot k).refCount]) s)

/-! ### The calendar clock -/

/-- R101, R102: SET CLOCK takes a valid date and time and makes the clock RUNNING, and gives BAD_ARG for any other
value; HOLD CLOCK makes it STOPPED and keeps its value. -/
def Obligations.SetAndHoldClock : Prop :=
  (∀ (s : State) (f : CommandFrame) (v : ClockValue),
      s.Released → v.year < 65536 → v.month < 256 → v.day < 256 → v.hour < 256 → v.minute < 256 → v.second < 256 →
      v.milli < 65536 → f.payload = clockBytes v →
        ((2000 ≤ v.year ∧ v.year ≤ 2099 ∧ 1 ≤ v.month ∧ v.month ≤ 12 ∧ 1 ≤ v.day ∧
              v.day ≤ monthLength v.year v.month ∧ v.hour ≤ 23 ∧ v.minute ≤ 59 ∧ v.second ≤ 59 ∧ v.milli ≤ 999) →
            exec (.setClock f) s = .next
              (replied s 0x50 f .ok [] { s with clock := v, clockState := .running })) ∧
          (¬(2000 ≤ v.year ∧ v.year ≤ 2099 ∧ 1 ≤ v.month ∧ v.month ≤ 12 ∧ 1 ≤ v.day ∧
              v.day ≤ monthLength v.year v.month ∧ v.hour ≤ 23 ∧ v.minute ≤ 59 ∧ v.second ≤ 59 ∧ v.milli ≤ 999) →
            exec (.setClock f) s = .next (replied s 0x50 f .badArg [] s))) ∧
    ∀ (s : State) (f : CommandFrame),
      s.Released → f.payload = [] →
        exec (.holdClock f) s = .next (replied s 0x51 f .ok [] { s with clockState := .stopped })

/-- R103: ADJUST CLOCK adds a signed amount of milliseconds from −999 to +999 to the time, in either state of the
clock, and gives BAD_ARG when the amount or the sum is out of range. -/
def Obligations.AdjustClockAdds : Prop :=
  ∀ (s : State) (f : CommandFrame) (hi lo : Byte),
    s.Released → s.clock.valid = true → f.payload = [hi, lo] →
      let amount : Int := (hi ++ lo : BitVec 16).toInt
      let sum : Int := s.clock.millis + amount
      (amount < -999 ∨ 999 < amount ∨ sum < 0 ∨ ClockValue.last.millis < sum →
          exec (.adjustClock f) s = .next (replied s 0x52 f .badArg [] s)) ∧
        (-999 ≤ amount → amount ≤ 999 → 0 ≤ sum → sum ≤ ClockValue.last.millis →
          ∃ v : ClockValue,
            v.valid = true ∧ (v.millis : Int) = sum ∧
              exec (.adjustClock f) s = .next (replied s 0x52 f .ok [] { s with clock := v }))

/-- R104, R154: READ CLOCK and READ STATUS return the values as they stand and change nothing. -/
def Obligations.ClockAndStatusRead : Prop :=
  (∀ (s : State) (f : CommandFrame),
      s.Released → f.payload = [] →
        exec (.readClock f) s = .next (replied s 0x53 f .ok
          (clockBytes s.clock ++ [byteOf s.clock.weekday, if s.clockState = .running then 0x01 else 0x00]) s)) ∧
    ∀ (s : State) (f : CommandFrame),
      s.Released → f.payload = [] →
        exec (.readStatus f) s = .next (replied s 0x62 f .ok
          [byteOf s.freeCount, if s.bypass then 0x01 else 0x00, if s.clockState = .running then 0x01 else 0x00,
            byteOf s.notices.length, byteOf s.queue.length, byteOf s.held.length,
            if s.drain = none then 0x00 else 0x01] s)

/-- R97: the months have the lengths of the table; the calendar counts days and milliseconds without gap or repetition
over its range of 36525 days, and the weekday follows the day number from 2000-01-01, a Saturday. -/
def Obligations.CalendarCounts : Prop :=
  (∀ year : Nat,
      [1, 2, 3, 4, 5, 6, 7, 8, 9, 10, 11, 12].map (monthLength year) =
        [31, if year % 4 = 0 then 29 else 28, 31, 30, 31, 30, 31, 31, 30, 31, 30, 31]) ∧
    (∀ v w : ClockValue, v.valid = true → w.valid = true → v.millis = w.millis → v = w) ∧
    ClockValue.first.millis = 0 ∧ ClockValue.last.millis = 36525 * 86400000 - 1 ∧
    (∀ v : ClockValue, v.valid = true → v.millis ≤ ClockValue.last.millis) ∧
    ClockValue.first.weekday = 5 ∧ ClockValue.last.weekday = 3 ∧
    (∀ v : ClockValue, v.valid = true → v.weekday = (5 + v.millis / 86400000) % 7) ∧
    (⟨2031, 5, 14, 0, 0, 0, 0⟩ : ClockValue).weekday = 2

/-- A tick (R98, R99, R100, R15, R65, R66, R185): a RUNNING clock advances by one millisecond, or stops at the last
value with CLOCK_END; every armed deadline falls by 1 and one at its last count forces its commit or retirement; the
notices are CLOCK_END first, then those of the surfaces in ascending number. -/
def Obligations.TickAdvances : Prop :=
  ∀ s : State,
    s.Released → s.clock.valid = true →
      ∃ t,
        exec .tick s = .next t ∧
          (s.clockState = .stopped → t.clock = s.clock ∧ t.clockState = .stopped) ∧
          (s.clockState = .running → s.clock = .last → t.clock = .last ∧ t.clockState = .stopped) ∧
          (s.clockState = .running → s.clock ≠ .last →
            t.clock.valid = true ∧ t.clock.millis = s.clock.millis + 1 ∧ t.clockState = .running) ∧
          (∀ n : SurfaceId, t.surf n = (s.surf n).ticked) ∧
          s.CountsMoved t (surfaceIds.flatMap fun n => (s.surf n).tickFrees) [] ∧
          t = { s with
                clock := t.clock, clockState := t.clockState, surfaces := t.surfaces, freeCount := t.freeCount,
                slots := t.slots,
                notices := postAll s.notices
                  (s.clockNotice ++ surfaceIds.flatMap fun n => (s.surf n).tickNotice n) }

/-! ### Bypass, drain and notices -/

/-- R153: SET BYPASS off is always taken; on is refused with LOCKED while a surface that is not VACANT holds a REDACT
item; any other value gives BAD_ARG. -/
def Obligations.SetBypassGuarded : Prop :=
  ∀ (s : State) (f : CommandFrame) (value : Byte),
    s.Released → f.payload = [value] →
      (value = 0x00 → exec (.setBypass f) s = .next (replied s 0x60 f .ok [] { s with bypass := false })) ∧
        (value = 0x01 → s.RedactHeld → exec (.setBypass f) s = .next (replied s 0x60 f .locked [] s)) ∧
        (value = 0x01 → ¬s.RedactHeld →
          exec (.setBypass f) s = .next (replied s 0x60 f .ok [] { s with bypass := true })) ∧
        (1 < value.toNat → exec (.setBypass f) s = .next (replied s 0x60 f .badArg [] s))

/-- R151, R152: DRAIN marks the newest entry under its frame's sequence byte, or posts DRAINED at once on an empty queue,
or gives BUSY while a drain is pending; the row DRAIN_MET, a pending drain met when no entry at or below its mark is in
the queue, posts DRAINED and leaves no drain pending. Before that DRAIN_MET changes nothing (the completion of the mark
entry performs the meeting itself: the model's reading, log 1). -/
def Obligations.DrainMarksAndIsMet : Prop :=
  (∀ (s : State) (f : CommandFrame),
      s.Released → f.payload = [] →
        (s.drain ≠ none → exec (.drain f) s = .next (replied s 0x61 f .busy [] s)) ∧
          (s.drain = none → s.queue = [] →
            exec (.drain f) s = .next (replied s 0x61 f .ok [0x00, 0x00, 0x00, 0x00, 0x00]
              { s with notices := postTo s.notices (.drained f.seq) })) ∧
          ∀ older newest, s.drain = none → s.queue = older ++ [newest] →
            exec (.drain f) s = .next (replied s 0x61 f .ok (0x01 :: beBytes 4 newest.seq.toNat)
              { s with drain := some ⟨newest.seq, f.seq⟩ })) ∧
    ∀ (s : State) (d : PendingDrain),
      s.Released → s.drain = some d →
        ((∀ e ∈ s.queue, seqAtOrBelow e.seq d.mark = false) →
            exec .drainMet s = .next { s with drain := none, notices := postTo s.notices (.drained d.id) }) ∧
          ((∃ e ∈ s.queue, seqAtOrBelow e.seq d.mark = true) → exec .drainMet s = .next s)

/-- R164, R183: NEXT NOTICE removes the oldest notice and returns it with the number left, or gives EMPTY; the notice
record's bytes by kind; ATTN is asserted exactly while the queue holds a notice (R166). -/
def Obligations.NextNoticeRemovesOldest : Prop :=
  (∀ (s : State) (f : CommandFrame),
      s.Released → f.payload = [] →
        (s.notices = [] → exec (.nextNotice f) s = .next (replied s 0x70 f .empty [] s)) ∧
          ∀ n rest, s.notices = n :: rest →
            exec (.nextNotice f) s = .next
              (replied s 0x70 f .ok (byteOf rest.length :: noticeBytes n) { s with notices := rest })) ∧
    (∀ s : State, s.attn = true ↔ s.notices ≠ []) ∧
    (∀ (n : SurfaceId) (number : FrameNumber),
      let about : List Byte := [0x01, byteOf n.val, 0x01] ++ beBytes 4 number.toNat
      (∀ b : BufferId, noticeBytes (.frame n number b) = 0x01 :: about ++ [byteOf b.val]) ∧
        noticeBytes (.committed n number) = 0x02 :: about ∧ noticeBytes (.commitForced n number) = 0x03 :: about ∧
        (∀ forced : Bool,
          noticeBytes (.retired n number forced) = 0x04 :: about ++ [if forced then 0x01 else 0x00]) ∧
        ∀ (addr : Address) (length : Nat) (tag : Tag),
          noticeBytes (.writeFault (some ⟨n, number⟩) addr length tag)
            = 0x06 :: about ++ beBytes 5 addr.toNat ++ beBytes 2 length ++ [byteOf tag.val]) ∧
    let absent : List Byte := [0x00, 0x00, 0x00, 0x00, 0x00, 0x00, 0x00]
    (∀ id : Byte, noticeBytes (.drained id) = 0x05 :: absent ++ [id]) ∧
      (∀ (addr : Address) (length : Nat) (tag : Tag),
        noticeBytes (.writeFault none addr length tag)
            = 0x06 :: absent ++ beBytes 5 addr.toNat ++ beBytes 2 length ++ [byteOf tag.val] ∧
          noticeBytes (.malformed addr length tag)
            = 0x07 :: absent ++ beBytes 5 addr.toNat ++ beBytes 2 length ++ [byteOf tag.val]) ∧
      noticeBytes .clockEnd = 0x08 :: absent ∧
      ∀ dropped : Nat, noticeBytes (.lost dropped) = 0x09 :: absent ++ beBytes 2 dropped

/-- R161, R162: what a post does: append, drop in favour of a LOST notice, or count in the LOST notice, whose count
stays at 65535. -/
def Obligations.PostsFollowTheQueue : Prop :=
  ∀ (s : State) (n : Notice),
    ((∀ m ∈ s.notices, m.isLost = false) → s.notices.length ≤ 30 →
        s.post n = { s with notices := s.notices ++ [n] }) ∧
      ((∀ m ∈ s.notices, m.isLost = false) → s.notices.length = 31 →
        s.post n = { s with notices := s.notices ++ [.lost 1] }) ∧
      ∀ older d, s.notices = older ++ [.lost d] → (∀ m ∈ older, m.isLost = false) →
        s.post n = { s with notices := older ++ [.lost (if d < 65535 then d + 1 else 65535)] }

/-! ### Frame tracking and stamping -/

/-- R14, R22, R23, R25, R64: a tracked portion that meets a condition of R23 starts a frame: the frame record is set
and, on a LIVE surface, a pending commit is applied, the notices are posted and the portion is stamped with the record
it leaves; on a RETIRING surface the retirement completes and the portion passes unstamped. The write carries the
number of the frame begun. -/
def Obligations.FrameStartEffects : Prop :=
  ∀ (s : State) (p : Portion) (n : SurfaceId) (k : BufferId) (d : SurfaceDef),
    s.Tracks p n k d → (s.surf n).frame.Starts d k (p.lowRow d k) →
      let number := (s.surf n).frame.number + 1
      let frame : FrameRecord := ⟨some k, p.highRow d k, number, some s.clock⟩
      let t := (s.handlePortion p).1
      s.ownerAfter t p = some ⟨n, number⟩ ∧
        ((s.surf n).state = .live →
          (if (s.surf n).commitPending = true then
              s.TableAfter t n
                { s.surf n with
                  active := (s.surf n).staged, staged := [], activePage := (s.surf n).stagedPage,
                  commitPending := false, deadlineRemaining := none, lastCommitFrame := some number, frame := frame } ∧
                s.CountsMoved t (s.surf n).active []
            else s.TableAfter t n { s.surf n with frame := frame } ∧ s.CountsMoved t [] []) ∧
            t = { s with
                  surfaces := t.surfaces, freeCount := t.freeCount, slots := t.slots,
                  notices := postAll s.notices
                    ((if (s.surf n).commitPending = true then [.committed n number] else [])
                      ++ if d.frameNotices = true then [.frame n number k] else []) } ∧
            (s.handlePortion p).2 = (if s.bypass then p.lanes else stampPortion t n d (p.offset d k) p.lanes)) ∧
        ((s.surf n).state = .retiring →
          s.TableAfter t n
              { s.surf n with
                state := .defined, active := [], activePage := none, deadlineRemaining := none, frame := frame } ∧
            s.CountsMoved t (s.surf n).active [] ∧
            t = { s with
                  surfaces := t.surfaces, freeCount := t.freeCount, slots := t.slots,
                  notices := postTo s.notices (.retired n number false) } ∧
            (s.handlePortion p).2 = p.lanes)

/-- R24: a tracked portion that meets no condition of R23 raises the high-water row to its highest row and changes
nothing else; it is stamped with the record as it stands, and the write carries the frame's number. -/
def Obligations.FrameContinues : Prop :=
  ∀ (s : State) (p : Portion) (n : SurfaceId) (k : BufferId) (d : SurfaceDef),
    s.Tracks p n k d → ¬(s.surf n).frame.Starts d k (p.lowRow d k) →
      let t := s.setSurf n
        { s.surf n with
          frame := { (s.surf n).frame with highWater := max (s.surf n).frame.highWater (p.highRow d k) } }
      s.handlePortion p = (t, if s.bypass then p.lanes else stampPortion t n d (p.offset d k) p.lanes) ∧
        s.ownerAfter t p = some ⟨n, (s.surf n).frame.number⟩

/-- R115, R116, R117: what stamping never changes: how many bytes a write has and which are enabled; a disabled byte, a
byte on no LIVE or RETIRING surface and a pad byte; and, while bypass is on, any byte. A write wholly off those
surfaces changes nothing and has no owner. -/
def Obligations.StampingKeepsOtherBytes : Prop :=
  ∀ (s : State) (w : WriteRequest),
    let out := (s.classifyWrite w).2.lanes
    out.map Lane.enabled = w.lanes.map Lane.enabled ∧
      (s.bypass = true → out = w.lanes) ∧
      (∀ (i : Nat) (l : Lane), w.lanes[i]? = some l →
        (l.enabled = false ∨ s.locate (w.addr.toNat + i) = none ∨
            ∃ ref d, s.locate (w.addr.toNat + i) = some ref ∧ (s.surf ref.surface).defn = some d ∧
              d.width * d.format.bpp
                ≤ (w.addr.toNat + i - (d.base + ref.buffer.val * d.stride)) % d.pitch) →
          out[i]? = some l) ∧
      ((∀ i : Nat, i < w.lanes.length → s.locate (w.addr.toNat + i) = none) →
        s.classifyWrite w = (s, ⟨w.lanes, none⟩))

/-- R8, R9: the portions of a write are its bytes in order, cut where the buffer they lie on changes and nowhere else;
a write that lies wholly on one buffer is one portion there. They are handled in address order, each against the state
the ones before it left, and the write carries the surface and frame number of the first that gives one. That the
write is cut once, when it is taken, is the model's reading (log 11). -/
def Obligations.PortionsCutTheWrite : Prop :=
  (∀ (s : State) (a : Nat) (lanes : List Lane),
      (s.portions a lanes).flatMap Portion.lanes = lanes ∧
        (∀ before p after, s.portions a lanes = before ++ p :: after →
          p.lanes ≠ [] ∧ p.start = a + (before.flatMap Portion.lanes).length ∧
            ∀ i : Nat, i < p.lanes.length → s.locate (p.start + i) = p.target) ∧
        ∀ before p q after, s.portions a lanes = before ++ p :: q :: after → p.target ≠ q.target) ∧
    (∀ (s : State) (w : WriteRequest) (n : SurfaceId) (d : SurfaceDef) (k : BufferId),
      s.TableWf → s.RangesDisjoint → s.WriteOn w n d k → w.lanes ≠ [] →
        s.portions w.addr.toNat w.lanes = [⟨w.addr.toNat, some ⟨n, k⟩, w.lanes⟩]) ∧
    ∀ (s : State) (before after : List Portion) (p : Portion),
      let s₁ := (s.handlePortions before).1
      let out := s₁.handlePortion p
      let rest := out.1.handlePortions after
      s.handlePortions (before ++ p :: after) =
        (rest.1,
          ⟨(s.handlePortions before).2.lanes ++ out.2 ++ rest.2.lanes,
            (s.handlePortions before).2.owner.or ((s₁.ownerAfter out.1 p).or rest.2.owner)⟩)

/-- R134: in every portion of a write, taken in a state that keeps the table's and the bypass switch's invariants,
every enabled byte on a pixel that a REDACT item of the surface's active list covers after the portion's frame start,
and every U or V byte of a pair of which it covers either pixel, holds the topmost such item's colour byte; and the
bytes of the portion stand so in the write that the surface table hands on (the write is cut into portions once, when
it is taken: the model's reading, log 11). -/
def Obligations.RedactionHolds : Prop :=
  ∀ (s : State) (w : WriteRequest) (before after : List Portion) (p : Portion) (ref : BufferRef) (d : SurfaceDef),
    s.TableWf → s.BypassSafe → s.portions w.addr.toNat w.lanes = before ++ p :: after →
      let s₁ := (s.handlePortions before).1
      let out := s₁.handlePortion p
      s₁.trackedOn p = some (ref, d) →
        (∃ head tail,
            (s.classifyWrite w).2.lanes = head ++ out.2 ++ tail ∧
              head.length = (before.flatMap Portion.lanes).length) ∧
          ∀ (i : Nat) (l : Lane) (below above : List Item) (b : RectItem),
            let o := p.start - (d.base + ref.buffer.val * d.stride) + i
            p.lanes[i]? = some l → l.enabled = true →
            ((out.1.surf ref.surface).state = .live ∨ (out.1.surf ref.surface).state = .retiring) →
            o % d.pitch < d.width * d.format.bpp →
            (out.1.surf ref.surface).active = below ++ .redact b :: above →
            b.coversByte d (o % d.pitch) (o / d.pitch) = true →
            (∀ c : RectItem, .redact c ∈ above → c.coversByte d (o % d.pitch) (o / d.pitch) = false) →
              out.2[i]? = some ⟨colourByte b.ink (d.colourPlace (o % d.pitch)), true⟩

/-- R106 to R113, R118 to R121 and R124 (its first pass) to R130, in eight clauses.
One BOX over a byte of a Y8 or XRGB8888 surface: OPAQUE gives the byte of its ink, HALF the average rounded down
(XRGB8888 keeps its X under HALF), and a byte it does not cover passes.
One TEXT item on a Y8 surface: the rendered cell, glyph row and glyph column that a pixel falls on decide the shade:
CLEAR leaves the byte, INK and EDGE take the item's blend, SHADE is laid at half strength whatever the blend.
What an item contributes to any pixel: a BOX its ink where it covers; a TEXT item nothing outside its cells, in a spacing
gap or on a BLANK cell, and by its shade elsewhere; a REDACT item nothing in this pass.
Items in list order, on a byte of one component (Y8, XRGB8888, the Y bytes of YUYV): one more item on top changes the
byte composed so far by its contribution alone. Items in list order on a whole RGB565 pixel: OPAQUE replaces it and HALF
averages each field. An RGB565 byte alone takes that of the topmost contribution's colour, or passes.
A stamped portion rewrites each enabled byte so, with the expansion of each TEXT item's slot.
The expansion of codes: each code's cells in order, cut to 64. -/
def Obligations.ItemsAreLaid : Prop :=
  (∀ (d : SurfaceDef) (page : GlyphPage) (b : RectItem) (bl : Blend) (lanes : List Lane) (o i : Nat),
      (d.format = .y8 ∨ d.format = .xrgb8888) → o % d.pitch < d.width * d.format.bpp →
        let written := (laneAt lanes i).data
        let place := d.colourPlace (o % d.pitch)
        let after := stampedByte d page [⟨.box b bl, []⟩] lanes o i
        (b.coversByte d (o % d.pitch) (o / d.pitch) = false → after = written) ∧
          (b.coversByte d (o % d.pitch) (o / d.pitch) = true →
            (bl = .opaqueBlend → after = colourByte b.ink place) ∧
              (bl = .halfBlend → d.format = .xrgb8888 → place = 3 → after = written) ∧
              (bl = .halfBlend → ¬(d.format = .xrgb8888 ∧ place = 3) →
                after.toNat = (written.toNat + (colourByte b.ink place).toNat) / 2))) ∧
    (∀ (d : SurfaceDef) (page : GlyphPage) (t : TextItem) (cells : List RenderedCell) (lanes : List Lane)
      (o i j row col : Nat) (cell : Fin 128) (sh : Shade),
      d.format = .y8 → o % d.pitch < d.width → 1 ≤ t.scaleX → 1 ≤ t.scaleY →
      row < 20 * t.scaleY → col < 12 * t.scaleX →
      o % d.pitch = t.x + j * (12 * t.scaleX + t.spacing) + col → o / d.pitch = t.y + row →
      cells[j]? = some (.glyph cell.val) →
      (page.cells[cell])[12 * (row / t.scaleY) + col / t.scaleX]? = some sh →
        let written := (laneAt lanes i).data
        let after := stampedByte d page [⟨.text t, cells⟩] lanes o i
        (sh = .clear → after = written) ∧
          (sh = .ink → t.blend = .opaqueBlend → after = colourByte t.ink 0) ∧
          (sh = .ink → t.blend = .halfBlend → after.toNat = (written.toNat + (colourByte t.ink 0).toNat) / 2) ∧
          (sh = .edge → t.blend = .opaqueBlend → after = colourByte t.edge 0) ∧
          (sh = .edge → t.blend = .halfBlend → after.toNat = (written.toNat + (colourByte t.edge 0).toNat) / 2) ∧
          (sh = .shade → after.toNat = (written.toNat + (colourByte t.shade 0).toNat) / 2)) ∧
    (∀ (page : GlyphPage) (cells : List RenderedCell) (c r : Nat),
      (∀ (b : RectItem) (bl : Blend),
          ((b.x ≤ c ∧ c < b.x + b.w ∧ b.y ≤ r ∧ r < b.y + b.h) →
              (⟨.box b bl, cells⟩ : DrawnItem).contribution page c r = some ⟨b.ink, bl⟩) ∧
            (¬(b.x ≤ c ∧ c < b.x + b.w ∧ b.y ≤ r ∧ r < b.y + b.h) →
              (⟨.box b bl, cells⟩ : DrawnItem).contribution page c r = none)) ∧
        (∀ b : RectItem, (⟨.redact b, cells⟩ : DrawnItem).contribution page c r = none) ∧
        ∀ t : TextItem, 1 ≤ t.scaleX → 1 ≤ t.scaleY →
          let laid := (⟨.text t, cells⟩ : DrawnItem).contribution page c r
          let cellPitch := 12 * t.scaleX + t.spacing
          ((c < t.x ∨ r < t.y ∨ 20 * t.scaleY ≤ r - t.y ∨ cells.length ≤ (c - t.x) / cellPitch) → laid = none) ∧
            (12 * t.scaleX ≤ (c - t.x) % cellPitch → laid = none) ∧
            (cells[(c - t.x) / cellPitch]? = some .blank → laid = none) ∧
            ∀ (cell : Fin 128) (sh : Shade),
              t.x ≤ c → t.y ≤ r → r - t.y < 20 * t.scaleY → (c - t.x) % cellPitch < 12 * t.scaleX →
              cells[(c - t.x) / cellPitch]? = some (.glyph cell.val) →
              (page.cells[cell])[12 * ((r - t.y) / t.scaleY) + (c - t.x) % cellPitch / t.scaleX]? = some sh →
                laid = match sh with
                  | .clear => none
                  | .ink => some ⟨t.ink, t.blend⟩
                  | .edge => some ⟨t.edge, t.blend⟩
                  | .shade => some ⟨t.shade, .halfBlend⟩) ∧
    (∀ (d : SurfaceDef) (page : GlyphPage) (below : List DrawnItem) (it : DrawnItem) (lanes : List Lane) (o i : Nat),
      (d.format = .y8 ∨ d.format = .xrgb8888 ∨ (d.format = .yuyv ∧ o % d.pitch % 2 = 0)) →
      o % d.pitch < d.width * d.format.bpp →
      let c := o % d.pitch / d.format.bpp
      let r := o / d.pitch
      let place := d.colourPlace (o % d.pitch)
      let before := stampedByte d page below lanes o i
      let after := stampedByte d page (below ++ [it]) lanes o i
      stampedByte d page [] lanes o i = (laneAt lanes i).data ∧
        ((∀ x ∈ below ++ [it], x.redaction c r = none) →
          (it.contribution page c r = none → after = before) ∧
            ∀ k, it.contribution page c r = some k →
              (k.blend = .opaqueBlend → after = colourByte k.colour place) ∧
                (k.blend = .halfBlend → d.format = .xrgb8888 → place = 3 → after = before) ∧
                (k.blend = .halfBlend → ¬(d.format = .xrgb8888 ∧ place = 3) →
                  after.toNat = (before.toNat + (colourByte k.colour place).toNat) / 2))) ∧
    (∀ (d : SurfaceDef) (page : GlyphPage) (below : List DrawnItem) (it : DrawnItem) (lanes : List Lane) (o i : Nat),
      d.format = .rgb565 → d.width * 2 ≤ d.pitch → o % d.pitch < d.width * 2 → o % d.pitch % 2 = 0 →
      (laneAt lanes i).enabled = true → (laneAt lanes (i + 1)).enabled = true →
      let c := o % d.pitch / 2
      let r := o / d.pitch
      let pixel (drawn : List DrawnItem) : BitVec 16 :=
        stampedByte d page drawn lanes (o + 1) (i + 1) ++ stampedByte d page drawn lanes o i
      let field (v : BitVec 16) (low size : Nat) : Nat := (v.extractLsb' low size).toNat
      pixel [] = (laneAt lanes (i + 1)).data ++ (laneAt lanes i).data ∧
        ((∀ x ∈ below ++ [it], x.redaction c r = none) →
          (it.contribution page c r = none → pixel (below ++ [it]) = pixel below) ∧
            ∀ k, it.contribution page c r = some k →
              (k.blend = .opaqueBlend → pixel (below ++ [it]) = k.colour.extractLsb' 0 16) ∧
                (k.blend = .halfBlend →
                  ∀ low size, (low, size) = (11, 5) ∨ (low, size) = (5, 6) ∨ (low, size) = (0, 5) →
                    field (pixel (below ++ [it])) low size =
                      (field (pixel below) low size + field (k.colour.extractLsb' 0 16) low size) / 2))) ∧
    (∀ (d : SurfaceDef) (page : GlyphPage) (drawn : List DrawnItem) (lanes : List Lane) (o i : Nat),
      d.format = .rgb565 → o % d.pitch < d.width * 2 →
      (if o % d.pitch % 2 = 0 then (laneAt lanes (i + 1)).enabled = false
        else i = 0 ∨ (laneAt lanes (i - 1)).enabled = false) →
      let c := o % d.pitch / 2
      let r := o / d.pitch
      (∀ x ∈ drawn, x.redaction c r = none) →
        ((∀ x ∈ drawn, x.contribution page c r = none) →
            stampedByte d page drawn lanes o i = (laneAt lanes i).data) ∧
          ∀ below above it k, drawn = below ++ it :: above → it.contribution page c r = some k →
            (∀ x ∈ above, x.contribution page c r = none) →
              stampedByte d page drawn lanes o i = colourByte k.colour (o % d.pitch % 2)) ∧
    (∀ (s : State) (n : SurfaceId) (d : SurfaceDef) (o i : Nat) (lanes : List Lane) (l : Lane) (p : Page),
      (s.surf n).activePage = some p → lanes[i]? = some l → l.enabled = true →
      let env : RenderInput := ⟨(s.page p).header, (s.surf n).frame.time, (s.surf n).frame.number, n⟩
      let drawn : List DrawnItem := (s.surf n).active.map fun it =>
        match it with
        | .text t => ⟨it, env.expand (s.slot t.slot).codes⟩
        | .box _ _ => ⟨it, []⟩
        | .redact _ => ⟨it, []⟩
      (stampPortion s n d o lanes)[i]? = some ⟨stampedByte d (s.page p) drawn lanes (o + i) i, true⟩) ∧
    ∀ (env : RenderInput) (codes : List Byte),
      env.expand codes = (codes.map env.expandCode).flatten.take 64 ∧
        ∀ code : Byte,
          let digit (v : Nat) : RenderedCell := .glyph (env.header.digitBase + v)
          let two (v : Nat) : List RenderedCell := [digit (v / 10 % 10), digit (v % 10)]
          let four (v : Nat) : List RenderedCell := two (v / 100) ++ two v
          let number := env.number.toNat
          (code.toNat < 128 → env.expandCode code = [.glyph code.toNat]) ∧
            (142 ≤ code.toNat → env.expandCode code = [.blank]) ∧
            env.expandCode 138 = four (number / 10000) ++ four number ∧
            env.expandCode 139 = four number ∧ env.expandCode 140 = [digit env.surface.val] ∧
            (∀ t, env.time = some t →
              env.expandCode 128 = four t.year ∧ env.expandCode 129 = two t.year ∧ env.expandCode 130 = two t.month ∧
                env.expandCode 131 = two t.day ∧ env.expandCode 132 = two t.hour ∧
                env.expandCode 133 =
                  (if t.hour = 0 then two 12 else if t.hour ≤ 12 then two t.hour else two (t.hour - 12)) ∧
                env.expandCode 134 = [.glyph (if t.hour < 12 then env.header.amGlyph else env.header.pmGlyph)] ∧
                env.expandCode 135 = two t.minute ∧ env.expandCode 136 = two t.second ∧
                env.expandCode 137 = digit (t.milli / 100 % 10) :: two t.milli ∧
                env.expandCode 141 = [.glyph (env.header.weekdayBase + t.weekday)]) ∧
            (env.time = none →
              env.expandCode 128 = [.blank, .blank, .blank, .blank] ∧ env.expandCode 137 = [.blank, .blank, .blank] ∧
                env.expandCode 134 = [.blank] ∧ env.expandCode 141 = [.blank] ∧
                ∀ code ∈ ([129, 130, 131, 132, 133, 135, 136] : List Byte), env.expandCode code = [.blank, .blank])

/-- R132: where no REDACT item covers either pixel of a YUYV pair, its U and V follow the topmost contributing item of
the left pixel, against the written chroma; without one they pass. -/
def Obligations.ChromaFollowsLeftPixel : Prop :=
  ∀ (d : SurfaceDef) (page : GlyphPage) (drawn : List DrawnItem) (lanes : List Lane) (o i : Nat),
    d.format = .yuyv → o % d.pitch < d.width * 2 → o % d.pitch % 2 = 1 →
      let left := 2 * (o % d.pitch / 4)
      let row := o / d.pitch
      let written := (laneAt lanes i).data
      let place := if o % d.pitch % 4 = 1 then 1 else 2
      (∀ it ∈ drawn, it.redaction left row = none ∧ it.redaction (left + 1) row = none) →
        ((∀ it ∈ drawn, it.contribution page left row = none) →
            stampedByte d page drawn lanes o i = written) ∧
          ∀ below above it k, drawn = below ++ it :: above → it.contribution page left row = some k →
            (∀ other ∈ above, other.contribution page left row = none) →
              (k.blend = .opaqueBlend → stampedByte d page drawn lanes o i = colourByte k.colour place) ∧
                (k.blend = .halfBlend →
                  (stampedByte d page drawn lanes o i).toNat
                    = (written.toNat + (colourByte k.colour place).toNat) / 2)

/-! ### The pass-through ports -/

/-- R142: UPSTREAM_WRITE that is taken at once: the write is classified and stamped, becomes the newest entry under the
next sequence number, is answered POSTED in its tag's order, and is issued at once if R143 lets it be. The state it
is taken in has nothing left to happen and no request waiting. That the issue and the answer belong to the same event
is the model's reading (log 1); which places count as the tag's is log 10. -/
def Obligations.UpstreamWritePosted : Prop :=
  ∀ (s : State) (w : WriteRequest),
    s.Released → s.Settled → s.upstream = [] → malformedWrite w = false → anyEnabled w.lanes = true →
    s.queue.length < 16 → (s.needsPlace w.tag = true → s.places.length < 32) →
      let c := s.classifyWrite w
      let entry : QueueEntry := ⟨s.nextSeq, w.addr, c.2.lanes, w.tag, c.2.owner, .queued⟩
      let issues : Bool :=
        s.queue.all (fun e => e.state == .issued) && decide (s.issuedCount < 4) && !s.heldBack entry
      ∃ t,
        exec (.upstreamWrite w) s = .next t ∧
          t = { c.1 with
                nextSeq := s.nextSeq + 1
                queue := s.queue ++ [if issues then { entry with state := .issued } else entry]
                presented :=
                  if issues then s.presented ++ [.write w.addr c.2.lanes w.tag] else s.presented
                places :=
                  if s.needsPlace w.tag then s.places ++ [⟨w.tag, .ready .posted⟩] else s.places
                answers :=
                  if s.needsPlace w.tag then s.answers else s.answers ++ [⟨w.tag, .posted⟩] }

/-- R140, R141: a malformed request is answered FAULT with a MALFORMED notice, a write with no enabled byte is answered
POSTED and discarded; neither enters a queue or touches a surface. That an answer nothing holds up is returned in the
same event is the model's reading (log 1); which places count as the tag's is log 10. -/
def Obligations.MalformedAndEmptyRequests : Prop :=
  ∀ (s : State) (t : Tag),
    s.Released → s.Settled → s.upstream = [] → (s.needsPlace t = true → s.places.length < 32) →
      let answered (s : State) (a : AnswerStatus) : State :=
        if s.needsPlace t then { s with places := s.places ++ [⟨t, .ready a⟩] }
        else { s with answers := s.answers ++ [⟨t, a⟩] }
      (∀ w : WriteRequest, w.tag = t → w.addr.toNat / 4096 ≠ (w.addr.toNat + w.lanes.length - 1) / 4096 →
          exec (.upstreamWrite w) s = .next
            (answered { s with notices := postTo s.notices (.malformed w.addr w.lanes.length t) } .fault)) ∧
        (∀ r : ReadRequest, r.tag = t → r.addr.toNat / 4096 ≠ (r.addr.toNat + r.length - 1) / 4096 →
          exec (.upstreamRead r) s = .next
            (answered { s with notices := postTo s.notices (.malformed r.addr r.length t) } .fault)) ∧
        ∀ w : WriteRequest, w.tag = t → w.addr.toNat / 4096 = (w.addr.toNat + w.lanes.length - 1) / 4096 →
          (∀ l ∈ w.lanes, l.enabled = false) → exec (.upstreamWrite w) s = .next (answered s .posted)

/-- R146: UPSTREAM_READ that is taken at once: forwarded when no entry overlaps it and no read of its tag is held,
otherwise held with its marks. -/
def Obligations.UpstreamReadForwardedOrHeld : Prop :=
  ∀ (s : State) (r : ReadRequest),
    s.Released → s.Settled → s.upstream = [] → malformedRead r = false → s.places.length < 32 →
      ((∀ e ∈ s.queue, e.overlapsRead r = false) → (∀ h ∈ s.held, h.req.tag ≠ r.tag) →
          exec (.upstreamRead r) s = .next
            { s with
              places := s.places ++ [⟨r.tag, .forwarded⟩]
              presented := s.presented ++ [.read r.addr r.length r.tag] }) ∧
        ((∀ e ∈ s.queue, e.overlapsRead r = false) → (∃ h ∈ s.held, h.req.tag = r.tag) → s.held.length < 4 →
          exec (.upstreamRead r) s = .next
            { s with places := s.places ++ [⟨r.tag, .held⟩], held := s.held ++ [⟨r, none, s.nextSeq⟩] }) ∧
        ∀ older e newer, s.queue = older ++ e :: newer → e.overlapsRead r = true →
          (∀ y ∈ newer, y.overlapsRead r = false) → s.held.length < 4 →
            exec (.upstreamRead r) s = .next
              { s with places := s.places ++ [⟨r.tag, .held⟩], held := s.held ++ [⟨r, some e.seq, s.nextSeq⟩] }

/-- R139: a request waits behind those that wait, and while its row of R139's table says so; it then has no effect but
to wait. -/
def Obligations.RequestsWait : Prop :=
  ∀ s : State,
    s.Released → s.Settled →
      (∀ w : WriteRequest,
          (s.upstream ≠ [] ∨ (s.needsPlace w.tag = true ∧ 32 ≤ s.places.length) ∨
              (malformedWrite w = false ∧ anyEnabled w.lanes = true ∧ 16 ≤ s.queue.length)) →
            exec (.upstreamWrite w) s = .next { s with upstream := s.upstream ++ [.write w] }) ∧
        ∀ r : ReadRequest,
          (s.upstream ≠ [] ∨ (malformedRead r = true ∧ s.needsPlace r.tag = true ∧ 32 ≤ s.places.length) ∨
              (malformedRead r = false ∧ 32 ≤ s.places.length) ∨
              (malformedRead r = false ∧ 4 ≤ s.held.length ∧
                ((∃ e ∈ s.queue, e.overlapsRead r = true) ∨ ∃ h ∈ s.held, h.req.tag = r.tag))) →
            exec (.upstreamRead r) s = .next { s with upstream := s.upstream ++ [.read r] }

/-- The rows WRITE_ISSUE and HELD_READ_RELEASE, each where R143 or R147 lets it act, and without effect elsewhere, with
no entry QUEUED and with no read held too (the event that makes the condition hold performs them itself: the model's
reading, log 1). -/
def Obligations.IssueAndRelease : Prop :=
  ((∀ s : State, s.Released → (∀ e ∈ s.queue, e.state = .issued) → exec .writeIssue s = .next s) ∧
      ∀ s : State, s.Released → s.held = [] → exec .heldReadRelease s = .next s) ∧
  (∀ (s : State) (before after : List QueueEntry) (e : QueueEntry),
      s.Released → s.queue = before ++ e :: after → (∀ x ∈ before, x.state = .issued) → e.state = .queued →
        ((s.issuedCount < 4 ∧ s.heldBack e = false) →
            exec .writeIssue s = .next
              { s with
                queue := before ++ { e with state := .issued } :: after
                presented := s.presented ++ [.write e.addr e.lanes e.tag] }) ∧
          (4 ≤ s.issuedCount ∨ s.heldBack e = true → exec .writeIssue s = .next s)) ∧
    ∀ (s : State) (h : HeldRead) (rest : List HeldRead) (pre post : List Place),
      s.Released → s.held = h :: rest → s.places = pre ++ ⟨h.req.tag, .held⟩ :: post →
      (∀ p ∈ pre, p ≠ ⟨h.req.tag, .held⟩) →
        ((∀ m, h.overlapMark = some m →
              ∀ e ∈ s.queue, seqAtOrBelow e.seq m = false ∨ e.overlapsRead h.req = false) →
            exec .heldReadRelease s = .next
              { s with
                held := rest
                places := pre ++ ⟨h.req.tag, .forwarded⟩ :: post
                presented := s.presented ++ [.read h.req.addr h.req.length h.req.tag] }) ∧
          ((∃ m, h.overlapMark = some m ∧
              ∃ e ∈ s.queue, seqAtOrBelow e.seq m = true ∧ e.overlapsRead h.req = true) →
            exec .heldReadRelease s = .next s)

/-- R144, R147, R152: WRITE_COMPLETION with an ISSUED head, whatever waits: the head entry leaves, WRITE_FAULT and then
DRAINED are posted; the reads it releases are presented, oldest first, and each has its place on the answer order list
forwarded; then the entries it lets issue are presented in queue order, until no more can be released or issued; nothing
else changes (the state `u`). Then the requests that wait upstream are taken in arrival order, each with the effect of
its taking, up to the first that must wait (R139). With no entry ISSUED the completion is ignored. That the completion
performs all this as one event is the model's reading (logs 1, 2). -/
def Obligations.CompletionRetiresHead : Prop :=
  (∀ (s : State) (e : QueueEntry) (rest : List QueueEntry) (st : CompletionStatus),
      s.Released → s.queue = e :: rest → e.state = .issued →
        let fault : List Notice :=
          if st = .fault then [.writeFault e.owner e.addr e.lanes.length e.tag] else []
        ∃ (t u : State) (released : List HeldRead) (k : Nat),
          exec (.writeCompletion st) s = .next t ∧
            u = { s with
                  queue := markIssued k rest
                  held := u.held
                  places := forwardAll released s.places
                  presented :=
                    s.presented ++ released.map HeldRead.presentedAs ++ (queuedWrites rest).take k
                  drain := u.drain
                  notices := u.notices } ∧
            s.held = released ++ u.held ∧
            (∀ h ∈ released, ∀ m, h.overlapMark = some m →
              ∀ x ∈ rest, seqAtOrBelow x.seq m = false ∨ x.overlapsRead h.req = false) ∧
            (∀ x ∈ (rest.filter fun x => x.state == .queued).take k, u.heldBack x = false) ∧
            (k = 0 ∨ u.issuedCount ≤ 4) ∧ u.canRelease = false ∧ u.canIssue = false ∧
            (∀ d, s.drain = some d → (∀ x ∈ rest, seqAtOrBelow x.seq d.mark = false) →
              u.drain = none ∧ u.notices = postAll s.notices (fault ++ [.drained d.id])) ∧
            ((∀ d, s.drain = some d → ∃ x ∈ rest, seqAtOrBelow x.seq d.mark = true) →
              u.drain = s.drain ∧ u.notices = postAll s.notices fault) ∧
            u.TakesWaiting t) ∧
    ∀ (s : State) (st : CompletionStatus),
      s.Released → s.Settled → (∀ e ∈ s.queue, e.state = .queued) → exec (.writeCompletion st) s = .next s

/-- R148, R149, R150: READ_RESPONSE to the read at the front of its tag's places is answered at once with its status and
data, and the ready answers behind it up to the next read still awaited go with it, in order; the places of other tags
stay; then the requests that wait upstream are taken in arrival order, each with the effect of its taking, up to the
first that must wait (R139). With no read of the tag forwarded the response is ignored. The row UPSTREAM_ANSWER returns a
ready answer that no earlier request of its tag holds up; where the tag's first place is not ready it changes nothing.
That the event which lets an answer go performs this itself, and what follows it, is the model's reading (logs 1, 2). -/
def Obligations.ReadAnswersReturned : Prop :=
  ((∀ (s : State) (t : Tag) (ret : ReadReturn) (pre post : List Place),
        s.Released → s.Settled → s.places = pre ++ ⟨t, .forwarded⟩ :: post →
        (∀ p ∈ pre, p.tag ≠ t) →
          ∃ (v u : State) (ready : List AnswerStatus),
            exec (.readResponse t ret) s = .next v ∧ u.TakesWaiting v ∧
              u.answers = s.answers ++
                ⟨t, match ret with | .ok data => .ok data | .fault => .fault⟩ :: ready.map (fun a => ⟨t, a⟩) ∧
              post.filter (fun p => p.tag == t)
                = ready.map (fun a => ⟨t, .ready a⟩) ++ u.places.filter (fun p => p.tag == t) ∧
              (∀ a, (u.places.filter (fun p => p.tag == t)).head? ≠ some ⟨t, .ready a⟩) ∧
              u.places.filter (fun p => p.tag != t) = s.places.filter (fun p => p.tag != t) ∧
              u = { s with answers := u.answers, places := u.places }) ∧
      ∀ (s : State) (t : Tag) (ret : ReadReturn),
        s.Released → s.Settled → (⟨t, .forwarded⟩ : Place) ∉ s.places → exec (.readResponse t ret) s = .next s) ∧
    ∀ (s : State) (t : Tag),
      s.Released →
        (∀ pre post a, s.places = pre ++ ⟨t, .ready a⟩ :: post → (∀ p ∈ pre, p.tag ≠ t) →
            exec (.upstreamAnswer t) s = .next { s with places := pre ++ post, answers := s.answers ++ [⟨t, a⟩] }) ∧
          ((∀ pre post a, s.places = pre ++ ⟨t, .ready a⟩ :: post → ∃ p ∈ pre, p.tag = t) →
            exec (.upstreamAnswer t) s = .next s)

/-! ### Invariants of every step -/

/-- R1, R6, R96: every step keeps each surface record as its state says, the clock valid, and the address ranges of
LIVE and RETIRING surfaces apart. -/
def Obligations.SurfaceTableKept : Prop :=
  ∀ s t : State, s.TableWf → s.RangesDisjoint → step s = .next t → t.TableWf ∧ t.RangesDisjoint

/-- R38, R90: every step keeps the free count plus the records on all lists at 96, and every reference count equal to
the number of items that name its slot. -/
def Obligations.PoolAndCountsKept : Prop :=
  ∀ s t : State, s.TableWf → s.PoolBalanced → s.CountsAgree → step s = .next t → t.PoolBalanced ∧ t.CountsAgree

/-- R55, R134: every step keeps REDACT items off every list while bypass is on. -/
def Obligations.BypassKeptSafe : Prop :=
  ∀ s t : State, s.TableWf → s.BypassSafe → step s = .next t → t.BypassSafe

/-- R143, R147, R150, R152, R159: every step keeps at most 32 notices with at most one LOST notice, always the newest, and
the posted write queue's and the two lists' bounds and order. -/
def Obligations.QueuesKept : Prop :=
  (∀ s t : State, noticesWf s.notices = true → step s = .next t → noticesWf t.notices = true) ∧
    ∀ s t : State, s.QueueWf → s.ListsWf → step s = .next t → t.QueueWf ∧ t.ListsWf

/-- R80, R82, R88, R90: every step keeps the stores in range, and no step but a hard reset changes a glyph page in use
or the codes of a slot whose reference count is not 0. -/
def Obligations.StoresProtected : Prop :=
  ∀ s t : State,
    step s = .next t →
      (s.StoresWf → t.StoresWf) ∧
        ((∀ received rest, s.pending ≠ .hardReset received :: rest) →
          (∀ p : Page, s.PageHeld p → t.page p = s.page p) ∧
            ∀ k : SlotId, (s.slot k).refCount ≠ 0 → (t.slot k).codes = (s.slot k).codes)

/-- R139, R143, R147, R149, R152: after every step nothing is left to happen that happens at the first moment of its
condition (that the event which makes the condition hold performs it is the model's reading, log 1). -/
def Obligations.SettledKept : Prop :=
  ∀ s t : State, s.ResetStands → s.Settled → step s = .next t → t.Settled

/-- R143: no step but a hard reset takes a write back or changes the order or the bytes of writes: those presented and
those queued stay, and new ones join behind them. -/
def Obligations.WritesKeepTheirOrder : Prop :=
  ∀ s t : State,
    step s = .next t → (∀ received rest, s.pending ≠ .hardReset received :: rest) →
      ∃ later, t.writeOrder = s.writeOrder ++ later

/-- The state after reset has every invariant that the steps keep. -/
def Obligations.InvariantsHoldAtReset : Prop :=
  State.reset.TableWf ∧ State.reset.RangesDisjoint ∧ State.reset.PoolBalanced ∧ State.reset.CountsAgree ∧
    State.reset.BypassSafe ∧ noticesWf State.reset.notices = true ∧ State.reset.QueueWf ∧ State.reset.ListsWf ∧
    State.reset.StoresWf ∧ State.reset.ResetStands ∧ State.reset.Settled
end

