-- ==== Sys2Proof/Laws/State.lean ====
section
/-! SUPPORT. One lemma per field per named update of the state, so that no later proof unfolds an update: what an
update writes, and that it leaves every other field alone. -/

namespace Sys2Proof.Machine

variable (s : State)

/-! `setSurf` -/

@[simp] theorem State.setSurf_surfaces (n : SurfaceId) (r : Surface) :
    (s.setSurf n r).surfaces = s.surfaces.set n r := rfl
@[simp] theorem State.setSurf_freeCount (n : SurfaceId) (r : Surface) : (s.setSurf n r).freeCount = s.freeCount := rfl
@[simp] theorem State.setSurf_pageA (n : SurfaceId) (r : Surface) : (s.setSurf n r).pageA = s.pageA := rfl
@[simp] theorem State.setSurf_pageB (n : SurfaceId) (r : Surface) : (s.setSurf n r).pageB = s.pageB := rfl
@[simp] theorem State.setSurf_slots (n : SurfaceId) (r : Surface) : (s.setSurf n r).slots = s.slots := rfl
@[simp] theorem State.setSurf_clock (n : SurfaceId) (r : Surface) : (s.setSurf n r).clock = s.clock := rfl
@[simp] theorem State.setSurf_clockState (n : SurfaceId) (r : Surface) :
    (s.setSurf n r).clockState = s.clockState := rfl
@[simp] theorem State.setSurf_queue (n : SurfaceId) (r : Surface) : (s.setSurf n r).queue = s.queue := rfl
@[simp] theorem State.setSurf_nextSeq (n : SurfaceId) (r : Surface) : (s.setSurf n r).nextSeq = s.nextSeq := rfl
@[simp] theorem State.setSurf_held (n : SurfaceId) (r : Surface) : (s.setSurf n r).held = s.held := rfl
@[simp] theorem State.setSurf_places (n : SurfaceId) (r : Surface) : (s.setSurf n r).places = s.places := rfl
@[simp] theorem State.setSurf_drain (n : SurfaceId) (r : Surface) : (s.setSurf n r).drain = s.drain := rfl
@[simp] theorem State.setSurf_bypass (n : SurfaceId) (r : Surface) : (s.setSurf n r).bypass = s.bypass := rfl
@[simp] theorem State.setSurf_upstream (n : SurfaceId) (r : Surface) : (s.setSurf n r).upstream = s.upstream := rfl
@[simp] theorem State.setSurf_notices (n : SurfaceId) (r : Surface) : (s.setSurf n r).notices = s.notices := rfl
@[simp] theorem State.setSurf_record (n : SurfaceId) (r : Surface) : (s.setSurf n r).record = s.record := rfl
@[simp] theorem State.setSurf_rxFrame (n : SurfaceId) (r : Surface) : (s.setSurf n r).rxFrame = s.rxFrame := rfl
@[simp] theorem State.setSurf_linkAbandoned (n : SurfaceId) (r : Surface) :
    (s.setSurf n r).linkAbandoned = s.linkAbandoned := rfl
@[simp] theorem State.setSurf_resetAsserted (n : SurfaceId) (r : Surface) :
    (s.setSurf n r).resetAsserted = s.resetAsserted := rfl
@[simp] theorem State.setSurf_presented (n : SurfaceId) (r : Surface) : (s.setSurf n r).presented = s.presented := rfl
@[simp] theorem State.setSurf_answers (n : SurfaceId) (r : Surface) : (s.setSurf n r).answers = s.answers := rfl
@[simp] theorem State.setSurf_misoOut (n : SurfaceId) (r : Surface) : (s.setSurf n r).misoOut = s.misoOut := rfl
@[simp] theorem State.setSurf_pending (n : SurfaceId) (r : Surface) : (s.setSurf n r).pending = s.pending := rfl

/-! `setSlot` -/

@[simp] theorem State.setSlot_surfaces (k : SlotId) (v : StringSlot) : (s.setSlot k v).surfaces = s.surfaces := rfl
@[simp] theorem State.setSlot_freeCount (k : SlotId) (v : StringSlot) : (s.setSlot k v).freeCount = s.freeCount := rfl
@[simp] theorem State.setSlot_pageA (k : SlotId) (v : StringSlot) : (s.setSlot k v).pageA = s.pageA := rfl
@[simp] theorem State.setSlot_pageB (k : SlotId) (v : StringSlot) : (s.setSlot k v).pageB = s.pageB := rfl
@[simp] theorem State.setSlot_slots (k : SlotId) (v : StringSlot) : (s.setSlot k v).slots = s.slots.set k v := rfl
@[simp] theorem State.setSlot_clock (k : SlotId) (v : StringSlot) : (s.setSlot k v).clock = s.clock := rfl
@[simp] theorem State.setSlot_clockState (k : SlotId) (v : StringSlot) :
    (s.setSlot k v).clockState = s.clockState := rfl
@[simp] theorem State.setSlot_queue (k : SlotId) (v : StringSlot) : (s.setSlot k v).queue = s.queue := rfl
@[simp] theorem State.setSlot_nextSeq (k : SlotId) (v : StringSlot) : (s.setSlot k v).nextSeq = s.nextSeq := rfl
@[simp] theorem State.setSlot_held (k : SlotId) (v : StringSlot) : (s.setSlot k v).held = s.held := rfl
@[simp] theorem State.setSlot_places (k : SlotId) (v : StringSlot) : (s.setSlot k v).places = s.places := rfl
@[simp] theorem State.setSlot_drain (k : SlotId) (v : StringSlot) : (s.setSlot k v).drain = s.drain := rfl
@[simp] theorem State.setSlot_bypass (k : SlotId) (v : StringSlot) : (s.setSlot k v).bypass = s.bypass := rfl
@[simp] theorem State.setSlot_upstream (k : SlotId) (v : StringSlot) : (s.setSlot k v).upstream = s.upstream := rfl
@[simp] theorem State.setSlot_notices (k : SlotId) (v : StringSlot) : (s.setSlot k v).notices = s.notices := rfl
@[simp] theorem State.setSlot_record (k : SlotId) (v : StringSlot) : (s.setSlot k v).record = s.record := rfl
@[simp] theorem State.setSlot_rxFrame (k : SlotId) (v : StringSlot) : (s.setSlot k v).rxFrame = s.rxFrame := rfl
@[simp] theorem State.setSlot_linkAbandoned (k : SlotId) (v : StringSlot) :
    (s.setSlot k v).linkAbandoned = s.linkAbandoned := rfl
@[simp] theorem State.setSlot_resetAsserted (k : SlotId) (v : StringSlot) :
    (s.setSlot k v).resetAsserted = s.resetAsserted := rfl
@[simp] theorem State.setSlot_presented (k : SlotId) (v : StringSlot) : (s.setSlot k v).presented = s.presented := rfl
@[simp] theorem State.setSlot_answers (k : SlotId) (v : StringSlot) : (s.setSlot k v).answers = s.answers := rfl
@[simp] theorem State.setSlot_misoOut (k : SlotId) (v : StringSlot) : (s.setSlot k v).misoOut = s.misoOut := rfl
@[simp] theorem State.setSlot_pending (k : SlotId) (v : StringSlot) : (s.setSlot k v).pending = s.pending := rfl

/-! `post` -/

@[simp] theorem State.post_surfaces (n : Notice) : (s.post n).surfaces = s.surfaces := rfl
@[simp] theorem State.post_freeCount (n : Notice) : (s.post n).freeCount = s.freeCount := rfl
@[simp] theorem State.post_pageA (n : Notice) : (s.post n).pageA = s.pageA := rfl
@[simp] theorem State.post_pageB (n : Notice) : (s.post n).pageB = s.pageB := rfl
@[simp] theorem State.post_slots (n : Notice) : (s.post n).slots = s.slots := rfl
@[simp] theorem State.post_clock (n : Notice) : (s.post n).clock = s.clock := rfl
@[simp] theorem State.post_clockState (n : Notice) : (s.post n).clockState = s.clockState := rfl
@[simp] theorem State.post_queue (n : Notice) : (s.post n).queue = s.queue := rfl
@[simp] theorem State.post_nextSeq (n : Notice) : (s.post n).nextSeq = s.nextSeq := rfl
@[simp] theorem State.post_held (n : Notice) : (s.post n).held = s.held := rfl
@[simp] theorem State.post_places (n : Notice) : (s.post n).places = s.places := rfl
@[simp] theorem State.post_drain (n : Notice) : (s.post n).drain = s.drain := rfl
@[simp] theorem State.post_bypass (n : Notice) : (s.post n).bypass = s.bypass := rfl
@[simp] theorem State.post_upstream (n : Notice) : (s.post n).upstream = s.upstream := rfl
@[simp] theorem State.post_notices (n : Notice) : (s.post n).notices = postTo s.notices n := rfl
@[simp] theorem State.post_record (n : Notice) : (s.post n).record = s.record := rfl
@[simp] theorem State.post_rxFrame (n : Notice) : (s.post n).rxFrame = s.rxFrame := rfl
@[simp] theorem State.post_linkAbandoned (n : Notice) : (s.post n).linkAbandoned = s.linkAbandoned := rfl
@[simp] theorem State.post_resetAsserted (n : Notice) : (s.post n).resetAsserted = s.resetAsserted := rfl
@[simp] theorem State.post_presented (n : Notice) : (s.post n).presented = s.presented := rfl
@[simp] theorem State.post_answers (n : Notice) : (s.post n).answers = s.answers := rfl
@[simp] theorem State.post_misoOut (n : Notice) : (s.post n).misoOut = s.misoOut := rfl
@[simp] theorem State.post_pending (n : Notice) : (s.post n).pending = s.pending := rfl

/-! `allocItems` -/

@[simp] theorem State.allocItems_surfaces (items : List Item) :
    (s.allocItems items).surfaces = s.surfaces := by simp only [State.allocItems]
@[simp] theorem State.allocItems_freeCount (items : List Item) :
    (s.allocItems items).freeCount = s.freeCount - items.length := by simp only [State.allocItems]
@[simp] theorem State.allocItems_pageA (items : List Item) :
    (s.allocItems items).pageA = s.pageA := by simp only [State.allocItems]
@[simp] theorem State.allocItems_pageB (items : List Item) :
    (s.allocItems items).pageB = s.pageB := by simp only [State.allocItems]
@[simp] theorem State.allocItems_slots (items : List Item) :
    (s.allocItems items).slots = 
    Vector.ofFn fun k => { s.slot k with refCount := (s.slot k).refCount + namesIn k items } := by simp only [State.allocItems]
@[simp] theorem State.allocItems_clock (items : List Item) :
    (s.allocItems items).clock = s.clock := by simp only [State.allocItems]
@[simp] theorem State.allocItems_clockState (items : List Item) :
    (s.allocItems items).clockState = s.clockState := by simp only [State.allocItems]
@[simp] theorem State.allocItems_queue (items : List Item) :
    (s.allocItems items).queue = s.queue := by simp only [State.allocItems]
@[simp] theorem State.allocItems_nextSeq (items : List Item) :
    (s.allocItems items).nextSeq = s.nextSeq := by simp only [State.allocItems]
@[simp] theorem State.allocItems_held (items : List Item) :
    (s.allocItems items).held = s.held := by simp only [State.allocItems]
@[simp] theorem State.allocItems_places (items : List Item) :
    (s.allocItems items).places = s.places := by simp only [State.allocItems]
@[simp] theorem State.allocItems_drain (items : List Item) :
    (s.allocItems items).drain = s.drain := by simp only [State.allocItems]
@[simp] theorem State.allocItems_bypass (items : List Item) :
    (s.allocItems items).bypass = s.bypass := by simp only [State.allocItems]
@[simp] theorem State.allocItems_upstream (items : List Item) :
    (s.allocItems items).upstream = s.upstream := by simp only [State.allocItems]
@[simp] theorem State.allocItems_notices (items : List Item) :
    (s.allocItems items).notices = s.notices := by simp only [State.allocItems]
@[simp] theorem State.allocItems_record (items : List Item) :
    (s.allocItems items).record = s.record := by simp only [State.allocItems]
@[simp] theorem State.allocItems_rxFrame (items : List Item) :
    (s.allocItems items).rxFrame = s.rxFrame := by simp only [State.allocItems]
@[simp] theorem State.allocItems_linkAbandoned (items : List Item) :
    (s.allocItems items).linkAbandoned = s.linkAbandoned := by simp only [State.allocItems]
@[simp] theorem State.allocItems_resetAsserted (items : List Item) :
    (s.allocItems items).resetAsserted = s.resetAsserted := by simp only [State.allocItems]
@[simp] theorem State.allocItems_presented (items : List Item) :
    (s.allocItems items).presented = s.presented := by simp only [State.allocItems]
@[simp] theorem State.allocItems_answers (items : List Item) :
    (s.allocItems items).answers = s.answers := by simp only [State.allocItems]
@[simp] theorem State.allocItems_misoOut (items : List Item) :
    (s.allocItems items).misoOut = s.misoOut := by simp only [State.allocItems]
@[simp] theorem State.allocItems_pending (items : List Item) :
    (s.allocItems items).pending = s.pending := by simp only [State.allocItems]

/-! `freeItems` -/

@[simp] theorem State.freeItems_surfaces (items : List Item) :
    (s.freeItems items).surfaces = s.surfaces := by simp only [State.freeItems]
@[simp] theorem State.freeItems_freeCount (items : List Item) :
    (s.freeItems items).freeCount = s.freeCount + items.length := by simp only [State.freeItems]
@[simp] theorem State.freeItems_pageA (items : List Item) :
    (s.freeItems items).pageA = s.pageA := by simp only [State.freeItems]
@[simp] theorem State.freeItems_pageB (items : List Item) :
    (s.freeItems items).pageB = s.pageB := by simp only [State.freeItems]
@[simp] theorem State.freeItems_slots (items : List Item) :
    (s.freeItems items).slots = 
    Vector.ofFn fun k => { s.slot k with refCount := (s.slot k).refCount - namesIn k items } := by simp only [State.freeItems]
@[simp] theorem State.freeItems_clock (items : List Item) :
    (s.freeItems items).clock = s.clock := by simp only [State.freeItems]
@[simp] theorem State.freeItems_clockState (items : List Item) :
    (s.freeItems items).clockState = s.clockState := by simp only [State.freeItems]
@[simp] theorem State.freeItems_queue (items : List Item) :
    (s.freeItems items).queue = s.queue := by simp only [State.freeItems]
@[simp] theorem State.freeItems_nextSeq (items : List Item) :
    (s.freeItems items).nextSeq = s.nextSeq := by simp only [State.freeItems]
@[simp] theorem State.freeItems_held (items : List Item) :
    (s.freeItems items).held = s.held := by simp only [State.freeItems]
@[simp] theorem State.freeItems_places (items : List Item) :
    (s.freeItems items).places = s.places := by simp only [State.freeItems]
@[simp] theorem State.freeItems_drain (items : List Item) :
    (s.freeItems items).drain = s.drain := by simp only [State.freeItems]
@[simp] theorem State.freeItems_bypass (items : List Item) :
    (s.freeItems items).bypass = s.bypass := by simp only [State.freeItems]
@[simp] theorem State.freeItems_upstream (items : List Item) :
    (s.freeItems items).upstream = s.upstream := by simp only [State.freeItems]
@[simp] theorem State.freeItems_notices (items : List Item) :
    (s.freeItems items).notices = s.notices := by simp only [State.freeItems]
@[simp] theorem State.freeItems_record (items : List Item) :
    (s.freeItems items).record = s.record := by simp only [State.freeItems]
@[simp] theorem State.freeItems_rxFrame (items : List Item) :
    (s.freeItems items).rxFrame = s.rxFrame := by simp only [State.freeItems]
@[simp] theorem State.freeItems_linkAbandoned (items : List Item) :
    (s.freeItems items).linkAbandoned = s.linkAbandoned := by simp only [State.freeItems]
@[simp] theorem State.freeItems_resetAsserted (items : List Item) :
    (s.freeItems items).resetAsserted = s.resetAsserted := by simp only [State.freeItems]
@[simp] theorem State.freeItems_presented (items : List Item) :
    (s.freeItems items).presented = s.presented := by simp only [State.freeItems]
@[simp] theorem State.freeItems_answers (items : List Item) :
    (s.freeItems items).answers = s.answers := by simp only [State.freeItems]
@[simp] theorem State.freeItems_misoOut (items : List Item) :
    (s.freeItems items).misoOut = s.misoOut := by simp only [State.freeItems]
@[simp] theorem State.freeItems_pending (items : List Item) :
    (s.freeItems items).pending = s.pending := by simp only [State.freeItems]

/-! `swapItem` -/

@[simp] theorem State.swapItem_surfaces (old new : Item) :
    (s.swapItem old new).surfaces = s.surfaces := by simp only [State.swapItem]
@[simp] theorem State.swapItem_freeCount (old new : Item) :
    (s.swapItem old new).freeCount = s.freeCount := by simp only [State.swapItem]
@[simp] theorem State.swapItem_pageA (old new : Item) :
    (s.swapItem old new).pageA = s.pageA := by simp only [State.swapItem]
@[simp] theorem State.swapItem_pageB (old new : Item) :
    (s.swapItem old new).pageB = s.pageB := by simp only [State.swapItem]
@[simp] theorem State.swapItem_slots (old new : Item) :
    (s.swapItem old new).slots = 
    Vector.ofFn fun k => { s.slot k with refCount := (s.slot k).refCount - namesIn k [old] + namesIn k [new] } := by simp only [State.swapItem]
@[simp] theorem State.swapItem_clock (old new : Item) :
    (s.swapItem old new).clock = s.clock := by simp only [State.swapItem]
@[simp] theorem State.swapItem_clockState (old new : Item) :
    (s.swapItem old new).clockState = s.clockState := by simp only [State.swapItem]
@[simp] theorem State.swapItem_queue (old new : Item) :
    (s.swapItem old new).queue = s.queue := by simp only [State.swapItem]
@[simp] theorem State.swapItem_nextSeq (old new : Item) :
    (s.swapItem old new).nextSeq = s.nextSeq := by simp only [State.swapItem]
@[simp] theorem State.swapItem_held (old new : Item) :
    (s.swapItem old new).held = s.held := by simp only [State.swapItem]
@[simp] theorem State.swapItem_places (old new : Item) :
    (s.swapItem old new).places = s.places := by simp only [State.swapItem]
@[simp] theorem State.swapItem_drain (old new : Item) :
    (s.swapItem old new).drain = s.drain := by simp only [State.swapItem]
@[simp] theorem State.swapItem_bypass (old new : Item) :
    (s.swapItem old new).bypass = s.bypass := by simp only [State.swapItem]
@[simp] theorem State.swapItem_upstream (old new : Item) :
    (s.swapItem old new).upstream = s.upstream := by simp only [State.swapItem]
@[simp] theorem State.swapItem_notices (old new : Item) :
    (s.swapItem old new).notices = s.notices := by simp only [State.swapItem]
@[simp] theorem State.swapItem_record (old new : Item) :
    (s.swapItem old new).record = s.record := by simp only [State.swapItem]
@[simp] theorem State.swapItem_rxFrame (old new : Item) :
    (s.swapItem old new).rxFrame = s.rxFrame := by simp only [State.swapItem]
@[simp] theorem State.swapItem_linkAbandoned (old new : Item) :
    (s.swapItem old new).linkAbandoned = s.linkAbandoned := by simp only [State.swapItem]
@[simp] theorem State.swapItem_resetAsserted (old new : Item) :
    (s.swapItem old new).resetAsserted = s.resetAsserted := by simp only [State.swapItem]
@[simp] theorem State.swapItem_presented (old new : Item) :
    (s.swapItem old new).presented = s.presented := by simp only [State.swapItem]
@[simp] theorem State.swapItem_answers (old new : Item) :
    (s.swapItem old new).answers = s.answers := by simp only [State.swapItem]
@[simp] theorem State.swapItem_misoOut (old new : Item) :
    (s.swapItem old new).misoOut = s.misoOut := by simp only [State.swapItem]
@[simp] theorem State.swapItem_pending (old new : Item) :
    (s.swapItem old new).pending = s.pending := by simp only [State.swapItem]

/-! `setStaged` -/

@[simp] theorem State.setStaged_surfaces (n : SurfaceId) (items : List Item) :
    (s.setStaged n items).surfaces = s.surfaces.set n { s.surf n with staged := items } := rfl
@[simp] theorem State.setStaged_freeCount (n : SurfaceId) (items : List Item) :
    (s.setStaged n items).freeCount = s.freeCount := rfl
@[simp] theorem State.setStaged_pageA (n : SurfaceId) (items : List Item) :
    (s.setStaged n items).pageA = s.pageA := rfl
@[simp] theorem State.setStaged_pageB (n : SurfaceId) (items : List Item) :
    (s.setStaged n items).pageB = s.pageB := rfl
@[simp] theorem State.setStaged_slots (n : SurfaceId) (items : List Item) :
    (s.setStaged n items).slots = s.slots := rfl
@[simp] theorem State.setStaged_clock (n : SurfaceId) (items : List Item) :
    (s.setStaged n items).clock = s.clock := rfl
@[simp] theorem State.setStaged_clockState (n : SurfaceId) (items : List Item) :
    (s.setStaged n items).clockState = s.clockState := rfl
@[simp] theorem State.setStaged_queue (n : SurfaceId) (items : List Item) :
    (s.setStaged n items).queue = s.queue := rfl
@[simp] theorem State.setStaged_nextSeq (n : SurfaceId) (items : List Item) :
    (s.setStaged n items).nextSeq = s.nextSeq := rfl
@[simp] theorem State.setStaged_held (n : SurfaceId) (items : List Item) : (s.setStaged n items).held = s.held := rfl
@[simp] theorem State.setStaged_places (n : SurfaceId) (items : List Item) :
    (s.setStaged n items).places = s.places := rfl
@[simp] theorem State.setStaged_drain (n : SurfaceId) (items : List Item) :
    (s.setStaged n items).drain = s.drain := rfl
@[simp] theorem State.setStaged_bypass (n : SurfaceId) (items : List Item) :
    (s.setStaged n items).bypass = s.bypass := rfl
@[simp] theorem State.setStaged_upstream (n : SurfaceId) (items : List Item) :
    (s.setStaged n items).upstream = s.upstream := rfl
@[simp] theorem State.setStaged_notices (n : SurfaceId) (items : List Item) :
    (s.setStaged n items).notices = s.notices := rfl
@[simp] theorem State.setStaged_record (n : SurfaceId) (items : List Item) :
    (s.setStaged n items).record = s.record := rfl
@[simp] theorem State.setStaged_rxFrame (n : SurfaceId) (items : List Item) :
    (s.setStaged n items).rxFrame = s.rxFrame := rfl
@[simp] theorem State.setStaged_linkAbandoned (n : SurfaceId) (items : List Item) :
    (s.setStaged n items).linkAbandoned = s.linkAbandoned := rfl
@[simp] theorem State.setStaged_resetAsserted (n : SurfaceId) (items : List Item) :
    (s.setStaged n items).resetAsserted = s.resetAsserted := rfl
@[simp] theorem State.setStaged_presented (n : SurfaceId) (items : List Item) :
    (s.setStaged n items).presented = s.presented := rfl
@[simp] theorem State.setStaged_answers (n : SurfaceId) (items : List Item) :
    (s.setStaged n items).answers = s.answers := rfl
@[simp] theorem State.setStaged_misoOut (n : SurfaceId) (items : List Item) :
    (s.setStaged n items).misoOut = s.misoOut := rfl
@[simp] theorem State.setStaged_pending (n : SurfaceId) (items : List Item) :
    (s.setStaged n items).pending = s.pending := rfl

/-! `receive` -/

@[simp] theorem State.receive_surfaces (bytes : List Byte) : (s.receive bytes).surfaces = s.surfaces := rfl
@[simp] theorem State.receive_freeCount (bytes : List Byte) : (s.receive bytes).freeCount = s.freeCount := rfl
@[simp] theorem State.receive_pageA (bytes : List Byte) : (s.receive bytes).pageA = s.pageA := rfl
@[simp] theorem State.receive_pageB (bytes : List Byte) : (s.receive bytes).pageB = s.pageB := rfl
@[simp] theorem State.receive_slots (bytes : List Byte) : (s.receive bytes).slots = s.slots := rfl
@[simp] theorem State.receive_clock (bytes : List Byte) : (s.receive bytes).clock = s.clock := rfl
@[simp] theorem State.receive_clockState (bytes : List Byte) : (s.receive bytes).clockState = s.clockState := rfl
@[simp] theorem State.receive_queue (bytes : List Byte) : (s.receive bytes).queue = s.queue := rfl
@[simp] theorem State.receive_nextSeq (bytes : List Byte) : (s.receive bytes).nextSeq = s.nextSeq := rfl
@[simp] theorem State.receive_held (bytes : List Byte) : (s.receive bytes).held = s.held := rfl
@[simp] theorem State.receive_places (bytes : List Byte) : (s.receive bytes).places = s.places := rfl
@[simp] theorem State.receive_drain (bytes : List Byte) : (s.receive bytes).drain = s.drain := rfl
@[simp] theorem State.receive_bypass (bytes : List Byte) : (s.receive bytes).bypass = s.bypass := rfl
@[simp] theorem State.receive_upstream (bytes : List Byte) : (s.receive bytes).upstream = s.upstream := rfl
@[simp] theorem State.receive_notices (bytes : List Byte) : (s.receive bytes).notices = s.notices := rfl
@[simp] theorem State.receive_record (bytes : List Byte) : (s.receive bytes).record = s.record := rfl
@[simp] theorem State.receive_rxFrame (bytes : List Byte) : (s.receive bytes).rxFrame = bytes := rfl
@[simp] theorem State.receive_linkAbandoned (bytes : List Byte) : (s.receive bytes).linkAbandoned = false := rfl
@[simp] theorem State.receive_resetAsserted (bytes : List Byte) :
    (s.receive bytes).resetAsserted = s.resetAsserted := rfl
@[simp] theorem State.receive_presented (bytes : List Byte) : (s.receive bytes).presented = s.presented := rfl
@[simp] theorem State.receive_answers (bytes : List Byte) : (s.receive bytes).answers = s.answers := rfl
@[simp] theorem State.receive_misoOut (bytes : List Byte) : (s.receive bytes).misoOut = s.misoOut := rfl
@[simp] theorem State.receive_pending (bytes : List Byte) : (s.receive bytes).pending = s.pending := rfl

/-! `conclude` -/

@[simp] theorem State.conclude_surfaces (tail : List Bool) (r : LastResult) :
    (s.conclude tail r).surfaces = s.surfaces := rfl
@[simp] theorem State.conclude_freeCount (tail : List Bool) (r : LastResult) :
    (s.conclude tail r).freeCount = s.freeCount := rfl
@[simp] theorem State.conclude_pageA (tail : List Bool) (r : LastResult) : (s.conclude tail r).pageA = s.pageA := rfl
@[simp] theorem State.conclude_pageB (tail : List Bool) (r : LastResult) : (s.conclude tail r).pageB = s.pageB := rfl
@[simp] theorem State.conclude_slots (tail : List Bool) (r : LastResult) : (s.conclude tail r).slots = s.slots := rfl
@[simp] theorem State.conclude_clock (tail : List Bool) (r : LastResult) : (s.conclude tail r).clock = s.clock := rfl
@[simp] theorem State.conclude_clockState (tail : List Bool) (r : LastResult) :
    (s.conclude tail r).clockState = s.clockState := rfl
@[simp] theorem State.conclude_queue (tail : List Bool) (r : LastResult) : (s.conclude tail r).queue = s.queue := rfl
@[simp] theorem State.conclude_nextSeq (tail : List Bool) (r : LastResult) :
    (s.conclude tail r).nextSeq = s.nextSeq := rfl
@[simp] theorem State.conclude_held (tail : List Bool) (r : LastResult) : (s.conclude tail r).held = s.held := rfl
@[simp] theorem State.conclude_places (tail : List Bool) (r : LastResult) :
    (s.conclude tail r).places = s.places := rfl
@[simp] theorem State.conclude_drain (tail : List Bool) (r : LastResult) : (s.conclude tail r).drain = s.drain := rfl
@[simp] theorem State.conclude_bypass (tail : List Bool) (r : LastResult) :
    (s.conclude tail r).bypass = s.bypass := rfl
@[simp] theorem State.conclude_upstream (tail : List Bool) (r : LastResult) :
    (s.conclude tail r).upstream = s.upstream := rfl
@[simp] theorem State.conclude_notices (tail : List Bool) (r : LastResult) :
    (s.conclude tail r).notices = s.notices := rfl
@[simp] theorem State.conclude_record (tail : List Bool) (r : LastResult) : (s.conclude tail r).record = r := rfl
@[simp] theorem State.conclude_rxFrame (tail : List Bool) (r : LastResult) : (s.conclude tail r).rxFrame = [] := rfl
@[simp] theorem State.conclude_linkAbandoned (tail : List Bool) (r : LastResult) :
    (s.conclude tail r).linkAbandoned = s.linkAbandoned := rfl
@[simp] theorem State.conclude_resetAsserted (tail : List Bool) (r : LastResult) :
    (s.conclude tail r).resetAsserted = s.resetAsserted := rfl
@[simp] theorem State.conclude_presented (tail : List Bool) (r : LastResult) :
    (s.conclude tail r).presented = s.presented := rfl
@[simp] theorem State.conclude_answers (tail : List Bool) (r : LastResult) :
    (s.conclude tail r).answers = s.answers := rfl
@[simp] theorem State.conclude_misoOut (tail : List Bool) (r : LastResult) : (s.conclude tail r).misoOut = 
    shiftedOut s.record (8 * s.rxFrame.length + tail.length) := rfl
@[simp] theorem State.conclude_pending (tail : List Bool) (r : LastResult) :
    (s.conclude tail r).pending = s.pending := rfl

/-! `presentRead` -/

@[simp] theorem State.presentRead_surfaces (r : ReadRequest) : (s.presentRead r).surfaces = s.surfaces := rfl
@[simp] theorem State.presentRead_freeCount (r : ReadRequest) : (s.presentRead r).freeCount = s.freeCount := rfl
@[simp] theorem State.presentRead_pageA (r : ReadRequest) : (s.presentRead r).pageA = s.pageA := rfl
@[simp] theorem State.presentRead_pageB (r : ReadRequest) : (s.presentRead r).pageB = s.pageB := rfl
@[simp] theorem State.presentRead_slots (r : ReadRequest) : (s.presentRead r).slots = s.slots := rfl
@[simp] theorem State.presentRead_clock (r : ReadRequest) : (s.presentRead r).clock = s.clock := rfl
@[simp] theorem State.presentRead_clockState (r : ReadRequest) : (s.presentRead r).clockState = s.clockState := rfl
@[simp] theorem State.presentRead_queue (r : ReadRequest) : (s.presentRead r).queue = s.queue := rfl
@[simp] theorem State.presentRead_nextSeq (r : ReadRequest) : (s.presentRead r).nextSeq = s.nextSeq := rfl
@[simp] theorem State.presentRead_held (r : ReadRequest) : (s.presentRead r).held = s.held := rfl
@[simp] theorem State.presentRead_places (r : ReadRequest) : (s.presentRead r).places = s.places := rfl
@[simp] theorem State.presentRead_drain (r : ReadRequest) : (s.presentRead r).drain = s.drain := rfl
@[simp] theorem State.presentRead_bypass (r : ReadRequest) : (s.presentRead r).bypass = s.bypass := rfl
@[simp] theorem State.presentRead_upstream (r : ReadRequest) : (s.presentRead r).upstream = s.upstream := rfl
@[simp] theorem State.presentRead_notices (r : ReadRequest) : (s.presentRead r).notices = s.notices := rfl
@[simp] theorem State.presentRead_record (r : ReadRequest) : (s.presentRead r).record = s.record := rfl
@[simp] theorem State.presentRead_rxFrame (r : ReadRequest) : (s.presentRead r).rxFrame = s.rxFrame := rfl
@[simp] theorem State.presentRead_linkAbandoned (r : ReadRequest) :
    (s.presentRead r).linkAbandoned = s.linkAbandoned := rfl
@[simp] theorem State.presentRead_resetAsserted (r : ReadRequest) :
    (s.presentRead r).resetAsserted = s.resetAsserted := rfl
@[simp] theorem State.presentRead_presented (r : ReadRequest) :
    (s.presentRead r).presented = s.presented ++ [.read r.addr r.length r.tag] := rfl
@[simp] theorem State.presentRead_answers (r : ReadRequest) : (s.presentRead r).answers = s.answers := rfl
@[simp] theorem State.presentRead_misoOut (r : ReadRequest) : (s.presentRead r).misoOut = s.misoOut := rfl
@[simp] theorem State.presentRead_pending (r : ReadRequest) : (s.presentRead r).pending = s.pending := rfl

/-! `setPage` -/

@[simp] theorem State.setPage_surfaces (p : Page) (g : GlyphPage) : (s.setPage p g).surfaces = s.surfaces := by
  cases p <;> rfl
@[simp] theorem State.setPage_freeCount (p : Page) (g : GlyphPage) : (s.setPage p g).freeCount = s.freeCount := by
  cases p <;> rfl
@[simp] theorem State.setPage_pageA (p : Page) (g : GlyphPage) :
    (s.setPage p g).pageA = if p = .a then g else s.pageA := by cases p <;> rfl
@[simp] theorem State.setPage_pageB (p : Page) (g : GlyphPage) :
    (s.setPage p g).pageB = if p = .b then g else s.pageB := by cases p <;> rfl
@[simp] theorem State.setPage_slots (p : Page) (g : GlyphPage) : (s.setPage p g).slots = s.slots := by
  cases p <;> rfl
@[simp] theorem State.setPage_clock (p : Page) (g : GlyphPage) : (s.setPage p g).clock = s.clock := by
  cases p <;> rfl
@[simp] theorem State.setPage_clockState (p : Page) (g : GlyphPage) : (s.setPage p g).clockState = s.clockState := by
  cases p <;> rfl
@[simp] theorem State.setPage_queue (p : Page) (g : GlyphPage) : (s.setPage p g).queue = s.queue := by
  cases p <;> rfl
@[simp] theorem State.setPage_nextSeq (p : Page) (g : GlyphPage) : (s.setPage p g).nextSeq = s.nextSeq := by
  cases p <;> rfl
@[simp] theorem State.setPage_held (p : Page) (g : GlyphPage) : (s.setPage p g).held = s.held := by
  cases p <;> rfl
@[simp] theorem State.setPage_places (p : Page) (g : GlyphPage) : (s.setPage p g).places = s.places := by
  cases p <;> rfl
@[simp] theorem State.setPage_drain (p : Page) (g : GlyphPage) : (s.setPage p g).drain = s.drain := by
  cases p <;> rfl
@[simp] theorem State.setPage_bypass (p : Page) (g : GlyphPage) : (s.setPage p g).bypass = s.bypass := by
  cases p <;> rfl
@[simp] theorem State.setPage_upstream (p : Page) (g : GlyphPage) : (s.setPage p g).upstream = s.upstream := by
  cases p <;> rfl
@[simp] theorem State.setPage_notices (p : Page) (g : GlyphPage) : (s.setPage p g).notices = s.notices := by
  cases p <;> rfl
@[simp] theorem State.setPage_record (p : Page) (g : GlyphPage) : (s.setPage p g).record = s.record := by
  cases p <;> rfl
@[simp] theorem State.setPage_rxFrame (p : Page) (g : GlyphPage) : (s.setPage p g).rxFrame = s.rxFrame := by
  cases p <;> rfl
@[simp] theorem State.setPage_linkAbandoned (p : Page) (g : GlyphPage) : (s.setPage p g).linkAbandoned = s.linkAbandoned := by
  cases p <;> rfl
@[simp] theorem State.setPage_resetAsserted (p : Page) (g : GlyphPage) : (s.setPage p g).resetAsserted = s.resetAsserted := by
  cases p <;> rfl
@[simp] theorem State.setPage_presented (p : Page) (g : GlyphPage) : (s.setPage p g).presented = s.presented := by
  cases p <;> rfl
@[simp] theorem State.setPage_answers (p : Page) (g : GlyphPage) : (s.setPage p g).answers = s.answers := by
  cases p <;> rfl
@[simp] theorem State.setPage_misoOut (p : Page) (g : GlyphPage) : (s.setPage p g).misoOut = s.misoOut := by
  cases p <;> rfl
@[simp] theorem State.setPage_pending (p : Page) (g : GlyphPage) : (s.setPage p g).pending = s.pending := by
  cases p <;> rfl

/-! Reading back -/

@[simp] theorem State.surf_setSurf_same (n : SurfaceId) (r : Surface) : (s.setSurf n r).surf n = r := by
  simp [State.surf]

theorem State.surf_setSurf (n m : SurfaceId) (r : Surface) :
    (s.setSurf n r).surf m = if n = m then r else s.surf m := by
  simp only [State.surf, State.setSurf_surfaces, Fin.getElem_fin, Vector.getElem_set, Fin.ext_iff]

theorem State.surf_setSurf_ne (n m : SurfaceId) (r : Surface) (h : n ≠ m) : (s.setSurf n r).surf m = s.surf m := by
  rw [State.surf_setSurf, if_neg h]

theorem State.slot_setSlot (k j : SlotId) (v : StringSlot) :
    (s.setSlot k v).slot j = if k = j then v else s.slot j := by
  simp only [State.slot, State.setSlot_slots, Fin.getElem_fin, Vector.getElem_set, Fin.ext_iff]

theorem State.page_setPage (p q : Page) (g : GlyphPage) : (s.setPage p g).page q = if p = q then g else s.page q := by
  cases p <;> cases q <;> rfl

/-- A surface record is read from the surfaces alone. -/
theorem State.surf_congr {s t : State} (h : s.surfaces = t.surfaces) (n : SurfaceId) : s.surf n = t.surf n := by
  simp only [State.surf, h]

/-- A slot is read from the slots alone. -/
theorem State.slot_congr {s t : State} (h : s.slots = t.slots) (k : SlotId) : s.slot k = t.slot k := by
  simp only [State.slot, h]

@[simp] theorem State.surf_post (n : Notice) (m : SurfaceId) : (s.post n).surf m = s.surf m := rfl
@[simp] theorem State.slot_post (n : Notice) (k : SlotId) : (s.post n).slot k = s.slot k := rfl
@[simp] theorem State.slot_setSurf (n : SurfaceId) (r : Surface) (k : SlotId) : (s.setSurf n r).slot k = s.slot k := rfl
@[simp] theorem State.surf_allocItems (items : List Item) (n : SurfaceId) : (s.allocItems items).surf n = s.surf n := by
  simp only [State.surf, State.allocItems_surfaces]
@[simp] theorem State.surf_freeItems (items : List Item) (n : SurfaceId) : (s.freeItems items).surf n = s.surf n := by
  simp only [State.surf, State.freeItems_surfaces]
@[simp] theorem State.surf_swapItem (old new : Item) (n : SurfaceId) : (s.swapItem old new).surf n = s.surf n := by
  simp only [State.surf, State.swapItem_surfaces]

@[simp] theorem State.surf_receive (bytes : List Byte) (n : SurfaceId) : (s.receive bytes).surf n = s.surf n := rfl
@[simp] theorem State.slot_receive (bytes : List Byte) (k : SlotId) : (s.receive bytes).slot k = s.slot k := rfl
@[simp] theorem State.page_receive (bytes : List Byte) (p : Page) : (s.receive bytes).page p = s.page p := by
  cases p <;> rfl

@[simp] theorem State.slot_allocItems (items : List Item) (k : SlotId) :
    (s.allocItems items).slot k = { s.slot k with refCount := (s.slot k).refCount + namesIn k items } := by
  simp [State.slot]

@[simp] theorem State.slot_freeItems (items : List Item) (k : SlotId) :
    (s.freeItems items).slot k = { s.slot k with refCount := (s.slot k).refCount - namesIn k items } := by
  simp [State.slot]

@[simp] theorem State.slot_swapItem (old new : Item) (k : SlotId) :
    (s.swapItem old new).slot k
      = { s.slot k with refCount := (s.slot k).refCount - namesIn k [old] + namesIn k [new] } := by
  simp [State.slot]

end Sys2Proof.Machine
end

