-- ==== Sys2Proof/Laws/Ops.lean ====
section
/-! SUPPORT. The spec lemmas of the shared operations on the notice queue, the item pool and a surface's commit and
retirement. -/

namespace Sys2Proof.Machine

/-! The notice queue (R161, R162) -/

theorem postTo_append (q : List Notice) (n : Notice) (h : q.any Notice.isLost = false) (hl : q.length < 31) :
    postTo q n = q ++ [n] := by
  simp only [postTo, h, Bool.false_eq_true, if_false, Config.noticeRoom, hl, if_true]

theorem postTo_drop (q : List Notice) (n : Notice) (h : q.any Notice.isLost = false) (hl : 31 ≤ q.length) :
    postTo q n = q ++ [.lost 1] := by
  simp only [postTo, h, Bool.false_eq_true, if_false, Config.noticeRoom, if_neg (Nat.not_lt.mpr hl)]

theorem map_countDrop (q : List Notice) (h : q.any Notice.isLost = false) : q.map Notice.countDrop = q := by
  induction q with
  | nil => rfl
  | cons n q ih =>
    simp only [List.any_cons, Bool.or_eq_false_iff] at h
    rw [List.map_cons, ih h.2]
    cases n <;> first | rfl | simp [Notice.isLost] at h

theorem postTo_count (older : List Notice) (d : Nat) (n : Notice) (h : older.any Notice.isLost = false) :
    postTo (older ++ [.lost d]) n = older ++ [.lost (min (d + 1) 65535)] := by
  have hl : (older ++ [Notice.lost d]).any Notice.isLost = true := by simp [Notice.isLost]
  simp only [postTo, hl, if_true, List.map_append, map_countDrop older h, List.map_cons, List.map_nil,
    Notice.countDrop, Config.droppedMax]

/-- A post writes the notice queue and nothing else. -/
theorem State.post_eq (s : State) (n : Notice) : s.post n = { s with notices := postTo s.notices n } := rfl

theorem postAll_cons (q : List Notice) (n : Notice) (ns : List Notice) :
    postAll q (n :: ns) = postAll (postTo q n) ns := rfl

theorem postAll_append (q : List Notice) (ns ms : List Notice) :
    postAll q (ns ++ ms) = postAll (postAll q ns) ms := by simp [postAll]

/-! The item pool (R39, R40, R44) -/

theorem State.freeItems_countsMoved (s : State) (items : List Item) : s.CountsMoved (s.freeItems items) items [] := by
  refine ⟨rfl, fun k => ?_⟩
  simp [namesIn]

theorem State.allocItems_countsMoved (s : State) (items : List Item) :
    s.CountsMoved (s.allocItems items) [] items := by
  refine ⟨rfl, fun k => ?_⟩
  simp [namesIn]

theorem State.swapItem_countsMoved (s : State) (old new : Item) :
    s.CountsMoved (s.swapItem old new) [old] [new] := by
  refine ⟨by simp, fun k => ?_⟩
  simp

/-- Freeing and then taking in one command moves the counts once. -/
theorem State.freeThenAlloc_countsMoved (s : State) (freed taken : List Item) :
    s.CountsMoved ((s.freeItems freed).allocItems taken) freed taken := by
  refine ⟨by simp, fun k => ?_⟩
  simp

theorem namesIn_nil (k : SlotId) : namesIn k [] = 0 := rfl

theorem namesIn_append (k : SlotId) (xs ys : List Item) : namesIn k (xs ++ ys) = namesIn k xs + namesIn k ys := by
  simp [namesIn]

/-! The ends of a commit and of a retirement (R63, R14, R15, R66) -/

/-- What the application of a commit does. -/
theorem State.applyCommit_spec (s : State) (n : SurfaceId) :
    s.OnlyTable (s.applyCommit n) ∧ s.CountsMoved (s.applyCommit n) (s.surf n).active [] ∧
      s.TableAfter (s.applyCommit n) n
        { s.surf n with
          active := (s.surf n).staged, staged := [], activePage := (s.surf n).stagedPage, commitPending := false,
          deadlineRemaining := none, lastCommitFrame := some (s.surf n).frame.number } := by
  refine ⟨?_, ⟨by simp [State.applyCommit], fun k => ?_⟩, ?_, fun m hm => ?_⟩
  · simp [State.applyCommit, State.setSurf, State.freeItems]
  · simp [State.applyCommit, namesIn]
  · simp [State.applyCommit, Surface.committed]
  · simp [State.applyCommit, State.surf_setSurf_ne _ _ _ _ hm.symm]

/-- What the completion of a retirement does. -/
theorem State.completeRetirement_spec (s : State) (n : SurfaceId) (forced : Bool) :
    (s.completeRetirement n forced).notices = postTo s.notices (.retired n (s.surf n).frame.number forced) ∧
      s.OnlyTable { s.completeRetirement n forced with notices := s.notices } ∧
      s.CountsMoved (s.completeRetirement n forced) (s.surf n).active [] ∧
      s.TableAfter (s.completeRetirement n forced) n
        { s.surf n with state := .defined, active := [], activePage := none, deadlineRemaining := none } := by
  refine ⟨by simp [State.completeRetirement], ?_, ⟨by simp [State.completeRetirement], fun k => ?_⟩, ?_,
    fun m hm => ?_⟩
  · simp [State.completeRetirement, State.post, State.setSurf, State.freeItems]
  · simp [State.completeRetirement, namesIn]
  · simp [State.completeRetirement, Surface.retired]
  · simp [State.completeRetirement, State.surf_setSurf_ne _ _ _ _ hm.symm]

theorem State.forceCommit_cases (s : State) (n : SurfaceId) :
    ((s.surf n).state = .live ∧ (s.surf n).commitPending = true ∧ (s.surf n).deadlineRemaining = some 0 ∧
        s.forceCommit n = (s.applyCommit n).post (.commitForced n (s.surf n).frame.number)) ∨
      (¬((s.surf n).state = .live ∧ (s.surf n).commitPending = true ∧ (s.surf n).deadlineRemaining = some 0) ∧
        s.forceCommit n = s) := by
  by_cases h : (s.surf n).state = .live ∧ (s.surf n).commitPending = true ∧ (s.surf n).deadlineRemaining = some 0
  · exact .inl ⟨h.1, h.2.1, h.2.2, by simp only [State.forceCommit]; rw [if_pos h]⟩
  · exact .inr ⟨h, by simp only [State.forceCommit]; rw [if_neg h]⟩

theorem State.forceRetirement_cases (s : State) (n : SurfaceId) :
    ((s.surf n).state = .retiring ∧ (s.surf n).deadlineRemaining = some 0 ∧
        s.forceRetirement n = s.completeRetirement n true) ∨
      (¬((s.surf n).state = .retiring ∧ (s.surf n).deadlineRemaining = some 0) ∧ s.forceRetirement n = s) := by
  by_cases h : (s.surf n).state = .retiring ∧ (s.surf n).deadlineRemaining = some 0
  · exact .inl ⟨h.1, h.2, by rw [State.forceRetirement, if_pos h]⟩
  · exact .inr ⟨h, by rw [State.forceRetirement, if_neg h]⟩

/-- What a tick does to the clock. -/
theorem State.tickClock_cases (s : State) :
    (s.clockState = .stopped ∧ s.tickClock = s) ∨
      (s.clockState = .running ∧ s.clock = .last ∧
        s.tickClock = ({ s with clockState := .stopped } : State).post .clockEnd) ∨
      (s.clockState = .running ∧ s.clock ≠ .last ∧ s.tickClock = { s with clock := s.clock.addMillis 1 }) := by
  cases h : s.clockState
  · exact .inl ⟨rfl, by simp only [State.tickClock, h]⟩
  · by_cases hl : s.clock = .last
    · exact .inr (.inl ⟨rfl, hl, by simp only [State.tickClock, h, hl, if_true]⟩)
    · exact .inr (.inr ⟨rfl, hl, by simp only [State.tickClock, h, if_neg hl]⟩)

end Sys2Proof.Machine
end

