-- ==== Sys2Proof/Laws/PerInstr.lean ====
section
/-! SUPPORT. A statement for every command, one lemma per constructor: which transactions a well-formed row of the
configuration port stands for. Fewer than eight bits follow its complete bytes, and only the row of bad frames without
a byte stands for an empty transaction (R170, R171). -/

namespace Sys2Proof

/-- The transaction of the row, where it has one, ends within a byte, and it is empty for `badFrame ⟨[], tail⟩`
alone. -/
def Laws.TransactionShape.Statement (i : Instr) : Prop :=
  i.wf = true → ∀ bytes tail, encodeTransaction i = some (bytes, tail) →
    tail.length < 8 ∧ (bytes = [] → i = .badFrame ⟨[], tail⟩)

theorem Laws.frameBytes_ne_nil (number : Byte) (f : CommandFrame) : Machine.frameBytes number f ≠ [] := by
  simp [Machine.frameBytes]

theorem Laws.tail_of_frameWf {f : CommandFrame} (h : f.wf = true) : f.tail.length < 8 := by
  simp only [CommandFrame.wf, tailWf, Bool.and_eq_true, decide_eq_true_eq] at h
  exact h.2

theorem Laws.TransactionShape.fromFrame {i : Instr} {number : Byte} {f : CommandFrame}
    (h : encodeTransaction i = some (Machine.frameBytes number f, f.tail)) (hf : i.wf = true → f.wf = true) :
    Laws.TransactionShape.Statement i := by
  intro hw bytes tail hb
  rw [h] at hb
  cases hb
  exact ⟨Laws.tail_of_frameWf (hf hw), fun hn => absurd hn (Laws.frameBytes_ne_nil number f)⟩

theorem Laws.TransactionShape.fromNone {i : Instr} (h : encodeTransaction i = none) :
    Laws.TransactionShape.Statement i := by
  intro _ bytes tail hb
  rw [h] at hb
  cases hb

theorem Laws.TransactionShape.nop (f : CommandFrame) : Laws.TransactionShape.Statement (.nop f) :=
  Laws.TransactionShape.fromFrame rfl id

theorem Laws.TransactionShape.softReset (f : CommandFrame) : Laws.TransactionShape.Statement (.softReset f) :=
  Laws.TransactionShape.fromFrame rfl id

theorem Laws.TransactionShape.defineSurface (f : CommandFrame) : Laws.TransactionShape.Statement (.defineSurface f) :=
  Laws.TransactionShape.fromFrame rfl id

theorem Laws.TransactionShape.activateSurface (f : CommandFrame) : Laws.TransactionShape.Statement (.activateSurface f) :=
  Laws.TransactionShape.fromFrame rfl id

theorem Laws.TransactionShape.retireSurface (f : CommandFrame) : Laws.TransactionShape.Statement (.retireSurface f) :=
  Laws.TransactionShape.fromFrame rfl id

theorem Laws.TransactionShape.releaseSurface (f : CommandFrame) : Laws.TransactionShape.Statement (.releaseSurface f) :=
  Laws.TransactionShape.fromFrame rfl id

theorem Laws.TransactionShape.readSurface (f : CommandFrame) : Laws.TransactionShape.Statement (.readSurface f) :=
  Laws.TransactionShape.fromFrame rfl id

theorem Laws.TransactionShape.addItem (f : CommandFrame) : Laws.TransactionShape.Statement (.addItem f) :=
  Laws.TransactionShape.fromFrame rfl id

theorem Laws.TransactionShape.setItem (f : CommandFrame) : Laws.TransactionShape.Statement (.setItem f) :=
  Laws.TransactionShape.fromFrame rfl id

theorem Laws.TransactionShape.removeItem (f : CommandFrame) : Laws.TransactionShape.Statement (.removeItem f) :=
  Laws.TransactionShape.fromFrame rfl id

theorem Laws.TransactionShape.moveItem (f : CommandFrame) : Laws.TransactionShape.Statement (.moveItem f) :=
  Laws.TransactionShape.fromFrame rfl id

theorem Laws.TransactionShape.clearStaged (f : CommandFrame) : Laws.TransactionShape.Statement (.clearStaged f) :=
  Laws.TransactionShape.fromFrame rfl id

theorem Laws.TransactionShape.cloneActive (f : CommandFrame) : Laws.TransactionShape.Statement (.cloneActive f) :=
  Laws.TransactionShape.fromFrame rfl id

theorem Laws.TransactionShape.selectPage (f : CommandFrame) : Laws.TransactionShape.Statement (.selectPage f) :=
  Laws.TransactionShape.fromFrame rfl id

theorem Laws.TransactionShape.readItem (f : CommandFrame) : Laws.TransactionShape.Statement (.readItem f) :=
  Laws.TransactionShape.fromFrame rfl id

theorem Laws.TransactionShape.commit (f : CommandFrame) : Laws.TransactionShape.Statement (.commit f) :=
  Laws.TransactionShape.fromFrame rfl id

theorem Laws.TransactionShape.cancelCommit (f : CommandFrame) : Laws.TransactionShape.Statement (.cancelCommit f) :=
  Laws.TransactionShape.fromFrame rfl id

theorem Laws.TransactionShape.writeGlyph (f : CommandFrame) : Laws.TransactionShape.Statement (.writeGlyph f) :=
  Laws.TransactionShape.fromFrame rfl id

theorem Laws.TransactionShape.writePageHeader (f : CommandFrame) : Laws.TransactionShape.Statement (.writePageHeader f) :=
  Laws.TransactionShape.fromFrame rfl id

theorem Laws.TransactionShape.readGlyph (f : CommandFrame) : Laws.TransactionShape.Statement (.readGlyph f) :=
  Laws.TransactionShape.fromFrame rfl id

theorem Laws.TransactionShape.writeString (f : CommandFrame) : Laws.TransactionShape.Statement (.writeString f) :=
  Laws.TransactionShape.fromFrame rfl id

theorem Laws.TransactionShape.readString (f : CommandFrame) : Laws.TransactionShape.Statement (.readString f) :=
  Laws.TransactionShape.fromFrame rfl id

theorem Laws.TransactionShape.setClock (f : CommandFrame) : Laws.TransactionShape.Statement (.setClock f) :=
  Laws.TransactionShape.fromFrame rfl id

theorem Laws.TransactionShape.holdClock (f : CommandFrame) : Laws.TransactionShape.Statement (.holdClock f) :=
  Laws.TransactionShape.fromFrame rfl id

theorem Laws.TransactionShape.adjustClock (f : CommandFrame) : Laws.TransactionShape.Statement (.adjustClock f) :=
  Laws.TransactionShape.fromFrame rfl id

theorem Laws.TransactionShape.readClock (f : CommandFrame) : Laws.TransactionShape.Statement (.readClock f) :=
  Laws.TransactionShape.fromFrame rfl id

theorem Laws.TransactionShape.setBypass (f : CommandFrame) : Laws.TransactionShape.Statement (.setBypass f) :=
  Laws.TransactionShape.fromFrame rfl id

theorem Laws.TransactionShape.drain (f : CommandFrame) : Laws.TransactionShape.Statement (.drain f) :=
  Laws.TransactionShape.fromFrame rfl id

theorem Laws.TransactionShape.readStatus (f : CommandFrame) : Laws.TransactionShape.Statement (.readStatus f) :=
  Laws.TransactionShape.fromFrame rfl id

theorem Laws.TransactionShape.nextNotice (f : CommandFrame) : Laws.TransactionShape.Statement (.nextNotice f) :=
  Laws.TransactionShape.fromFrame rfl id

theorem Laws.TransactionShape.badFrame (raw : RawTransaction) : Laws.TransactionShape.Statement (.badFrame raw) := by
  intro hw out after ho
  cases ho
  simp only [Instr.wf, tailWf, Bool.and_eq_true, decide_eq_true_eq] at hw
  exact ⟨hw.2, fun hn => by rw [← hn]⟩

theorem Laws.TransactionShape.badCommand (number : Byte) (f : CommandFrame) :
    Laws.TransactionShape.Statement (.badCommand number f) :=
  Laws.TransactionShape.fromFrame rfl fun h => by
    simp only [Instr.wf, Bool.and_eq_true] at h
    exact h.2

theorem Laws.TransactionShape.hardReset (received : Option (List Byte)) :
    Laws.TransactionShape.Statement (.hardReset received) := Laws.TransactionShape.fromNone rfl

theorem Laws.TransactionShape.resetnRelease (csnLow : Bool) :
    Laws.TransactionShape.Statement (.resetnRelease csnLow) := Laws.TransactionShape.fromNone rfl

theorem Laws.TransactionShape.tick :
    Laws.TransactionShape.Statement .tick := Laws.TransactionShape.fromNone rfl

theorem Laws.TransactionShape.forcedCommit (n : SurfaceId) :
    Laws.TransactionShape.Statement (.forcedCommit n) := Laws.TransactionShape.fromNone rfl

theorem Laws.TransactionShape.forcedRetirement (n : SurfaceId) :
    Laws.TransactionShape.Statement (.forcedRetirement n) := Laws.TransactionShape.fromNone rfl

theorem Laws.TransactionShape.upstreamWrite (w : WriteRequest) :
    Laws.TransactionShape.Statement (.upstreamWrite w) := Laws.TransactionShape.fromNone rfl

theorem Laws.TransactionShape.upstreamRead (r : ReadRequest) :
    Laws.TransactionShape.Statement (.upstreamRead r) := Laws.TransactionShape.fromNone rfl

theorem Laws.TransactionShape.writeIssue :
    Laws.TransactionShape.Statement .writeIssue := Laws.TransactionShape.fromNone rfl

theorem Laws.TransactionShape.writeCompletion (st : CompletionStatus) :
    Laws.TransactionShape.Statement (.writeCompletion st) := Laws.TransactionShape.fromNone rfl

theorem Laws.TransactionShape.heldReadRelease :
    Laws.TransactionShape.Statement .heldReadRelease := Laws.TransactionShape.fromNone rfl

theorem Laws.TransactionShape.readResponse (tag : Tag) (ret : ReadReturn) :
    Laws.TransactionShape.Statement (.readResponse tag ret) := Laws.TransactionShape.fromNone rfl

theorem Laws.TransactionShape.upstreamAnswer (tag : Tag) :
    Laws.TransactionShape.Statement (.upstreamAnswer tag) := Laws.TransactionShape.fromNone rfl

theorem Laws.TransactionShape.drainMet :
    Laws.TransactionShape.Statement .drainMet := Laws.TransactionShape.fromNone rfl

end Sys2Proof
end

