-- ==== Sys2Proof/Laws/Port.lean ====
section
/-! SUPPORT. What a transaction of the configuration port does, once for every command: the spec lemma of
`runCommand`, of the checks that commands share, and of the payload parts. -/

namespace Sys2Proof.Machine

/-- Every byte has eight bits. -/
theorem length_bitsOfBytes (bytes : List Byte) : (bitsOfBytes bytes).length = 8 * bytes.length := by
  induction bytes with
  | nil => rfl
  | cons b bs ih => simp only [bitsOfBytes, List.length_append, ih, bitsOfByte, List.length_cons, List.length_nil]; omega

/-- The end of a transaction, in the terms of `replied`. -/
theorem State.conclude_eq_replied (s t : State) (number : Byte) (f : CommandFrame) (c : ResultCode) (p : List Byte)
    (hr : t.record = s.record) (hx : t.rxFrame = frameBytes number f) (hl : t.linkAbandoned = false) :
    t.conclude f.tail ⟨c, f.seq, number, p⟩ = replied s number f c p t := by
  have hm : 8 * t.rxFrame.length + f.tail.length = (frameBits number f).length := by
    rw [hx, frameBits, List.length_append, length_bitsOfBytes]
  simp only [State.conclude, replied, hm, hl, hr]

/-- What a transaction leaves does not depend on the port's fields of the state it is given. -/
theorem replied_receive (s t : State) (number : Byte) (f : CommandFrame) (c : ResultCode) (p bytes : List Byte) :
    replied s number f c p (t.receive bytes) = replied s number f c p t := rfl

/-- A command body keeps the port's own fields: the record, the receive frame and the link's condition. -/
def KeepsPort (body : State → Reply × State) : Prop :=
  ∀ s, (body s).2.record = s.record ∧ (body s).2.rxFrame = s.rxFrame ∧ (body s).2.linkAbandoned = s.linkAbandoned

/-- `runCommand` with the right payload length: the body's result becomes the record. -/
theorem runCommand_ok (number : Byte) (f : CommandFrame) (body : State → Reply × State) (s : State)
    (h : s.resetAsserted = false) (hb : KeepsPort body) :
    runCommand number f true body s = .next
      (replied s number f (body (s.receive (frameBytes number f))).1.code
        (body (s.receive (frameBytes number f))).1.payload (body (s.receive (frameBytes number f))).2) := by
  have hk := hb (s.receive (frameBytes number f))
  simp only [runCommand, h, Bool.false_eq_true, if_false, if_true]
  rw [State.conclude_eq_replied s _ number f _ _ (by simpa using hk.1) (by simpa using hk.2.1) (by simpa using hk.2.2)]

/-- `runCommand` with a wrong payload length: BAD_ARG, and nothing else changes (R174). -/
theorem runCommand_badLength (number : Byte) (f : CommandFrame) (body : State → Reply × State) (s : State)
    (h : s.resetAsserted = false) :
    runCommand number f false body s = .next (replied s number f .badArg [] s) := by
  simp only [runCommand, h, Bool.false_eq_true, if_false, Reply.bare]
  rw [State.conclude_eq_replied s (s.receive (frameBytes number f)) number f _ _ rfl rfl rfl, replied_receive]

/-- `runCommand` while RESETN is asserted: nothing (R178). -/
theorem runCommand_inReset (number : Byte) (f : CommandFrame) (ok : Bool) (body : State → Reply × State) (s : State)
    (h : s.resetAsserted = true) : runCommand number f ok body s = .next s := by
  simp only [runCommand, h, if_true]

/-- Every command body keeps the queue of waiting commands if its outcome does. -/
theorem runCommand_pending (number : Byte) (f : CommandFrame) (ok : Bool) (body : State → Reply × State) (s : State)
    (hb : ∀ u, (body u).2.pending = u.pending) :
    ∃ t, runCommand number f ok body s = .next t ∧ t.pending = s.pending := by
  unfold runCommand
  split
  · exact ⟨s, rfl, rfl⟩
  · refine ⟨_, rfl, ?_⟩
    cases ok
    · rfl
    · simp [hb]

theorem surfaceOf_byteOf (n : SurfaceId) : surfaceOf (byteOf n.val) = some n := by
  revert n; decide

theorem slotOf_byteOf (k : SlotId) : slotOf (byteOf k.val) = some k := by
  revert k; decide

theorem surfaceOf_none (b : Byte) (h : 7 < b.toNat) : surfaceOf b = none := by
  simp only [surfaceOf]; rw [dif_neg]; omega

theorem surfaceOf_some {b : Byte} {n : SurfaceId} (h : surfaceOf b = some n) : b.toNat = n.val := by
  unfold surfaceOf at h
  split at h
  · cases h; rfl
  · cases h

/-- `onSurface` on a surface number in range. -/
theorem onSurface_byteOf {f : CommandFrame} {n : SurfaceId} {rest : List Byte}
    (hp : f.payload = byteOf n.val :: rest) (body : SurfaceId → State → Reply × State) (s : State) :
    onSurface f body s = body n s := by
  simp [onSurface, arg, hp, surfaceOf_byteOf]

theorem keepsPort_onSurface (f : CommandFrame) (body : SurfaceId → State → Reply × State)
    (h : ∀ n, KeepsPort (body n)) : KeepsPort (onSurface f body) := by
  intro s
  unfold onSurface
  split
  · exact ⟨rfl, rfl, rfl⟩
  · exact h _ s

/-- The body of a staging command, as `onStaging` guards it. -/
def guardStaging (body : SurfaceId → State → Reply × State) (n : SurfaceId) (s : State) : Reply × State :=
  match (s.surf n).stagingRefusal with
  | some c => (.bare c, s)
  | none => body n s

theorem onStaging_eq (f : CommandFrame) (body : SurfaceId → State → Reply × State) :
    onStaging f body = onSurface f (guardStaging body) := rfl

theorem keepsPort_guardStaging (body : SurfaceId → State → Reply × State) (h : ∀ n, KeepsPort (body n))
    (n : SurfaceId) : KeepsPort (guardStaging body n) := by
  intro s
  unfold guardStaging
  split
  · exact ⟨rfl, rfl, rfl⟩
  · exact h n s

theorem guardStaging_open (body : SurfaceId → State → Reply × State) (n : SurfaceId) (s : State)
    (h : (s.surf n).StagingOpen) : guardStaging body n s = body n s := by
  rcases h with h | ⟨h, hc⟩ <;> simp [guardStaging, Surface.stagingRefusal, *]

/-- A command on a surface, with a payload of the right length and a surface number in range. -/
theorem runOnSurface (number : Byte) (f : CommandFrame) (k : Nat) (body : SurfaceId → State → Reply × State)
    (s : State) (n : SurfaceId) (rest : List Byte) (h : s.resetAsserted = false) (hb : ∀ n, KeepsPort (body n))
    (hp : f.payload = byteOf n.val :: rest) (hk : rest.length + 1 = k) :
    runCommand number f (f.payload.length == k) (onSurface f body) s = .next
      (replied s number f (body n (s.receive (frameBytes number f))).1.code
        (body n (s.receive (frameBytes number f))).1.payload (body n (s.receive (frameBytes number f))).2) := by
  have hl : (f.payload.length == k) = true := by simp [hp, hk]
  rw [hl, runCommand_ok _ _ _ _ h (keepsPort_onSurface _ _ hb), onSurface_byteOf hp]

/-- A staging command on a surface that takes staging commands. -/
theorem runOnStaging (number : Byte) (f : CommandFrame) (k : Nat) (body : SurfaceId → State → Reply × State)
    (s : State) (n : SurfaceId) (rest : List Byte) (h : s.resetAsserted = false) (hb : ∀ n, KeepsPort (body n))
    (hp : f.payload = byteOf n.val :: rest) (hk : rest.length + 1 = k) (ho : (s.surf n).StagingOpen) :
    runCommand number f (f.payload.length == k) (onStaging f body) s = .next
      (replied s number f (body n (s.receive (frameBytes number f))).1.code
        (body n (s.receive (frameBytes number f))).1.payload (body n (s.receive (frameBytes number f))).2) := by
  rw [onStaging_eq, runOnSurface number f k _ s n rest h (keepsPort_guardStaging _ hb) hp hk,
    guardStaging_open _ _ _ (by simpa using ho)]

/-! Every command body keeps the port's fields -/

theorem keepsPort_defineSurface (f : CommandFrame) (n : SurfaceId) : KeepsPort (defineSurface f n) := by
  intro s; unfold defineSurface; split <;> (try split) <;> exact ⟨rfl, rfl, rfl⟩

theorem keepsPort_activateSurface (n : SurfaceId) : KeepsPort (activateSurface n) := by
  intro s; unfold activateSurface; split <;> (try split) <;> exact ⟨rfl, rfl, rfl⟩

theorem keepsPort_retireSurface (n : SurfaceId) : KeepsPort (retireSurface n) := by
  intro s; unfold retireSurface; split <;> exact ⟨rfl, rfl, rfl⟩

theorem keepsPort_releaseSurface (n : SurfaceId) : KeepsPort (releaseSurface n) := by
  intro s; unfold releaseSurface; split <;> simp

theorem keepsPort_readSurface (n : SurfaceId) : KeepsPort (readSurface n) := fun _ => ⟨rfl, rfl, rfl⟩

theorem keepsPort_addItem (f : CommandFrame) (n : SurfaceId) : KeepsPort (addItem f n) := by
  intro s; unfold addItem; split
  · simp
  · split
    · simp
    · split
      · simp
      · split <;> simp

theorem keepsPort_setItem (f : CommandFrame) (n : SurfaceId) : KeepsPort (setItem f n) := by
  intro s; unfold setItem; split
  · split <;> simp
  · simp

theorem keepsPort_removeItem (f : CommandFrame) (n : SurfaceId) : KeepsPort (removeItem f n) := by
  intro s; unfold removeItem; split <;> simp

theorem keepsPort_moveItem (f : CommandFrame) (n : SurfaceId) : KeepsPort (moveItem f n) := by
  intro s; simp only [moveItem]; split
  · simp
  · split <;> simp

theorem keepsPort_clearStaged (n : SurfaceId) : KeepsPort (clearStaged n) := by
  intro s; simp [clearStaged]

theorem keepsPort_cloneActive (n : SurfaceId) : KeepsPort (cloneActive n) := by
  intro s; simp only [cloneActive]; split
  · split <;> simp
  · simp

theorem keepsPort_selectPage (f : CommandFrame) (n : SurfaceId) : KeepsPort (selectPage f n) := by
  intro s; unfold selectPage; split <;> simp

theorem keepsPort_readItem (f : CommandFrame) (n : SurfaceId) : KeepsPort (readItem f n) := by
  intro s; unfold readItem; split
  · simp
  · split
    · simp
    · split <;> simp

theorem keepsPort_commit (n : SurfaceId) : KeepsPort (commit n) := by
  intro s; simp only [commit]; split
  · split <;> simp
  · simp

theorem keepsPort_cancelCommit (n : SurfaceId) : KeepsPort (cancelCommit n) := by
  intro s; simp only [cancelCommit]; split
  · split <;> simp
  · simp

theorem keepsPort_writeGlyph (f : CommandFrame) : KeepsPort (writeGlyph f) := by
  intro s; unfold writeGlyph; split
  · split <;> simp
  · simp

theorem keepsPort_writePageHeader (f : CommandFrame) : KeepsPort (writePageHeader f) := by
  intro s; unfold writePageHeader; split
  · split <;> simp
  · simp

theorem keepsPort_readGlyph (f : CommandFrame) : KeepsPort (readGlyph f) := by
  intro s; unfold readGlyph; split <;> simp

theorem keepsPort_writeString (f : CommandFrame) : KeepsPort (writeString f) := by
  intro s; unfold writeString; split
  · simp
  · split
    · simp
    · split <;> simp

theorem keepsPort_readString (f : CommandFrame) : KeepsPort (readString f) := by
  intro s; unfold readString; split <;> simp

theorem keepsPort_setClock (f : CommandFrame) : KeepsPort (setClock f) := by
  intro s; unfold setClock; split <;> simp

theorem keepsPort_holdClock : KeepsPort holdClock := fun _ => ⟨rfl, rfl, rfl⟩

theorem keepsPort_adjustClock (f : CommandFrame) : KeepsPort (adjustClock f) := by
  intro s; unfold adjustClock; split
  · simp
  · split <;> simp

theorem keepsPort_readClock : KeepsPort readClock := fun _ => ⟨rfl, rfl, rfl⟩

theorem keepsPort_setBypass (f : CommandFrame) : KeepsPort (setBypass f) := by
  intro s; unfold setBypass; split
  · simp
  · split <;> simp

theorem keepsPort_takeDrain (f : CommandFrame) : KeepsPort (takeDrain f) := by
  intro s; unfold takeDrain; split
  · simp
  · split <;> simp

theorem keepsPort_readStatus : KeepsPort readStatus := fun _ => ⟨rfl, rfl, rfl⟩

theorem keepsPort_nextNotice : KeepsPort nextNotice := by
  intro s; unfold nextNotice; split <;> simp

theorem keepsPort_softReset : KeepsPort fun s => (Reply.done, s.softReset) := by
  intro s; simp [State.softReset]

end Sys2Proof.Machine
end

