-- ==== Sys2Proof/Laws/Stamp.lean ====
section
/-! SUPPORT. The spec lemmas of the stamping engine and of the expansion of codes: one more item on top of a list, and
what a run of contributions leaves. -/

namespace Sys2Proof.Machine

/-! Blends -/

theorem averageByte_toNat (old new : Byte) : (averageByte old new).toNat = (old.toNat + new.toNat) / 2 := by
  rw [averageByte, BitVec.toNat_ofNat]
  omega

/-- Each field of an RGB565 average is the average of the two fields: red, green and blue (R128). -/
theorem average565_fields (old new : BitVec 16) :
    ((average565 old new).extractLsb' 11 5).toNat
        = ((old.extractLsb' 11 5).toNat + (new.extractLsb' 11 5).toNat) / 2 ∧
      ((average565 old new).extractLsb' 5 6).toNat
        = ((old.extractLsb' 5 6).toNat + (new.extractLsb' 5 6).toNat) / 2 ∧
      ((average565 old new).extractLsb' 0 5).toNat
        = ((old.extractLsb' 0 5).toNat + (new.extractLsb' 0 5).toNat) / 2 := by
  have h11 := (old.extractLsb' 11 5).isLt
  have h5 := (old.extractLsb' 5 6).isLt
  have h0 := (old.extractLsb' 0 5).isLt
  have k11 := (new.extractLsb' 11 5).isLt
  have k5 := (new.extractLsb' 5 6).isLt
  have k0 := (new.extractLsb' 0 5).isLt
  simp only [average565]
  generalize (old.extractLsb' 11 5).toNat = a at *
  generalize (new.extractLsb' 11 5).toNat = a' at *
  generalize (old.extractLsb' 5 6).toNat = b at *
  generalize (new.extractLsb' 5 6).toNat = b' at *
  generalize (old.extractLsb' 0 5).toNat = c at *
  generalize (new.extractLsb' 0 5).toNat = c' at *
  simp only [BitVec.extractLsb'_toNat, BitVec.toNat_ofNat, Nat.shiftRight_eq_div_pow]
  omega

/-! Items in list order -/

theorem redactionAt_none {drawn : List DrawnItem} {c r : Nat} (h : ∀ x ∈ drawn, x.redaction c r = none) :
    redactionAt drawn c r = none := by
  have : drawn.filterMap (fun d => d.redaction c r) = [] := List.filterMap_eq_nil_iff.mpr h
  rw [redactionAt, this]
  rfl

/-- One more item on top: its contribution is the last. -/
theorem contributionsAt_snoc (page : GlyphPage) (below : List DrawnItem) (it : DrawnItem) (c r : Nat) :
    contributionsAt page (below ++ [it]) c r
      = contributionsAt page below c r ++ (it.contribution page c r).toList := by
  rw [contributionsAt, List.filterMap_append, contributionsAt]
  cases h : it.contribution page c r <;> simp [List.filterMap, h]

theorem composeByte_plain {page : GlyphPage} {drawn : List DrawnItem} {c r : Nat} (x : Bool) (i : Nat) (w : Byte)
    (h : ∀ y ∈ drawn, y.redaction c r = none) :
    composeByte page drawn c r x i w = (contributionsAt page drawn c r).foldl (blendByte x i) w := by
  rw [composeByte, redactionAt_none h]

theorem compose565_plain {page : GlyphPage} {drawn : List DrawnItem} {c r : Nat} (x : Bool) (w : BitVec 16)
    (h : ∀ y ∈ drawn, y.redaction c r = none) :
    compose565 page drawn c r x w = (contributionsAt page drawn c r).foldl (blend565 x) w := by
  rw [compose565, redactionAt_none h]

/-- One more item on top of a byte of one component: its contribution blends with the byte composed below (R124). -/
theorem composeByte_snoc {page : GlyphPage} {below : List DrawnItem} {it : DrawnItem} {c r : Nat} (x : Bool) (i : Nat)
    (w : Byte) (h : ∀ y ∈ below ++ [it], y.redaction c r = none) :
    composeByte page (below ++ [it]) c r x i w =
      match it.contribution page c r with
      | none => composeByte page below c r x i w
      | some k => blendByte x i (composeByte page below c r x i w) k := by
  rw [composeByte_plain x i w h, composeByte_plain x i w fun y hy => h y (by simp [hy]), contributionsAt_snoc,
    List.foldl_append]
  cases it.contribution page c r <;> rfl

/-- One more item on top of an RGB565 pixel (R124). -/
theorem compose565_snoc {page : GlyphPage} {below : List DrawnItem} {it : DrawnItem} {c r : Nat} (x : Bool)
    (w : BitVec 16) (h : ∀ y ∈ below ++ [it], y.redaction c r = none) :
    compose565 page (below ++ [it]) c r x w =
      match it.contribution page c r with
      | none => compose565 page below c r x w
      | some k => blend565 x (compose565 page below c r x w) k := by
  rw [compose565_plain x w h, compose565_plain x w fun y hy => h y (by simp [hy]), contributionsAt_snoc,
    List.foldl_append]
  cases it.contribution page c r <;> rfl

/-- With every blend taken as OPAQUE only the topmost contribution is left (R130). -/
theorem foldl_blend565_opaque (ks : List Contribution) (w : BitVec 16) :
    ks.foldl (blend565 true) w = ((ks.getLast?).map fun k => colour565 k.colour).getD w := by
  induction ks generalizing w with
  | nil => rfl
  | cons k ks ih =>
    rw [List.foldl_cons, ih]
    have : blend565 true w k = colour565 k.colour := by cases h : k.blend <;> simp [blend565, h]
    cases ks with
    | nil => simp [this]
    | cons k' ks => simp [List.getLast?_eq_some_getLast]

end Sys2Proof.Machine
end

