-- ==== Sys2Proof/Laws/Track.lean ====
section
/-! SUPPORT. The spec lemmas of frame tracking, of the handling of a portion and of the bytes it leaves. -/

namespace Sys2Proof.Machine

/-! The bytes of a portion -/

theorem stampFrom_length (d : SurfaceDef) (page : GlyphPage) (drawn : List DrawnItem) (all : List Lane) (o i : Nat)
    (lanes : List Lane) : (stampFrom d page drawn all o i lanes).length = lanes.length := by
  induction lanes generalizing i with
  | nil => rfl
  | cons l rest ih => simp only [stampFrom, List.length_cons, ih]

theorem stampFrom_enabled (d : SurfaceDef) (page : GlyphPage) (drawn : List DrawnItem) (all : List Lane) (o i : Nat)
    (lanes : List Lane) : (stampFrom d page drawn all o i lanes).map Lane.enabled = lanes.map Lane.enabled := by
  induction lanes generalizing i with
  | nil => rfl
  | cons l rest ih => simp only [stampFrom, List.map_cons, ih]

/-- The byte at a place of a stamped portion. -/
theorem stampFrom_getElem? (d : SurfaceDef) (page : GlyphPage) (drawn : List DrawnItem) (all : List Lane)
    (o i j : Nat) (lanes : List Lane) :
    (stampFrom d page drawn all o i lanes)[j]? =
      lanes[j]?.map fun l =>
        { l with data := if l.enabled then stampedByte d page drawn all (o + (i + j)) (i + j) else l.data } := by
  induction lanes generalizing i j with
  | nil => rfl
  | cons l rest ih =>
    cases j with
    | zero => simp [stampFrom]
    | succ j =>
      simp only [stampFrom, List.getElem?_cons_succ, ih]
      rw [show i + 1 + j = i + (j + 1) by omega]

theorem stampPortion_length (s : State) (n : SurfaceId) (d : SurfaceDef) (o : Nat) (lanes : List Lane) :
    (stampPortion s n d o lanes).length = lanes.length := by
  unfold stampPortion
  split
  · rfl
  · exact stampFrom_length ..

theorem stampPortion_enabled (s : State) (n : SurfaceId) (d : SurfaceDef) (o : Nat) (lanes : List Lane) :
    (stampPortion s n d o lanes).map Lane.enabled = lanes.map Lane.enabled := by
  unfold stampPortion
  split
  · rfl
  · exact stampFrom_enabled ..

/-! Tracking one portion -/

theorem Surface.drawing_iff (r : Surface) : r.drawing = true ↔ r.state = .live ∨ r.state = .retiring := by
  simp [Surface.drawing]

/-- A tracked portion, in the terms of R22. -/
theorem State.trackedOn_of_tracks {s : State} {p : Portion} {n : SurfaceId} {k : BufferId} {d : SurfaceDef}
    (h : s.Tracks p n k d) : s.trackedOn p = some (⟨n, k⟩, d) := by
  obtain ⟨ht, hd, hs, l, hl, he⟩ := h
  have hany : anyEnabled p.lanes = true := List.any_eq_true.mpr ⟨l, hl, he⟩
  simp only [State.trackedOn, ht, hd, (Surface.drawing_iff _).mpr hs, hany, Bool.and_self, if_true]

theorem State.tracks_of_trackedOn {s : State} {p : Portion} {ref : BufferRef} {d : SurfaceDef}
    (h : s.trackedOn p = some (ref, d)) : s.Tracks p ref.surface ref.buffer d := by
  simp only [State.trackedOn] at h
  split at h
  · cases h
  · rename_i r hr
    split at h
    · cases h
    · rename_i e he
      split at h
      · rename_i hc
        cases h
        simp only [Bool.and_eq_true] at hc
        obtain ⟨l, hl, hle⟩ := List.any_eq_true.mp hc.2
        exact ⟨hr, he, (Surface.drawing_iff _).mp hc.1, l, hl, hle⟩
      · cases h

theorem FrameRecord.startsFrame_iff (fr : FrameRecord) (d : SurfaceDef) (k : BufferId) (rLow : Nat) :
    fr.startsFrame d.rewindTolerance k rLow = true ↔ fr.Starts d k rLow := by
  unfold FrameRecord.startsFrame FrameRecord.Starts
  cases h : fr.currentBuffer with
  | none => simp
  | some b =>
    by_cases hb : b = k
    · subst hb; simp
    · simp [hb]

/-- A portion that is not tracked changes nothing and passes. -/
theorem State.handlePortion_untracked {s : State} {p : Portion} (h : s.trackedOn p = none) :
    s.handlePortion p = (s, p.lanes) := by
  simp only [State.handlePortion, State.trackIfDrawn, h]

/-- A tracked portion: tracked on its surface, then stamped against the state that leaves. -/
theorem State.handlePortion_tracked {s : State} {p : Portion} {n : SurfaceId} {k : BufferId} {d : SurfaceDef}
    (h : s.Tracks p n k d) :
    s.handlePortion p =
      (s.trackPortion n d k (p.lowRow d k) (p.highRow d k),
        (s.trackPortion n d k (p.lowRow d k) (p.highRow d k)).stampAfter p ⟨n, k⟩ d) := by
  simp only [State.handlePortion, State.trackIfDrawn, State.trackedOn_of_tracks h]
  rfl

/-- What the tracking of a portion can do: start a frame, or continue one. -/
theorem State.trackPortion_cases (s : State) (n : SurfaceId) (d : SurfaceDef) (k : BufferId) (lo hi : Nat) :
    ((s.surf n).frame.Starts d k lo ∧ s.trackPortion n d k lo hi = s.startFrame n d k hi) ∨
      (¬(s.surf n).frame.Starts d k lo ∧ s.trackPortion n d k lo hi = s.continueFrame n hi) := by
  by_cases h : (s.surf n).frame.Starts d k lo
  · exact .inl ⟨h, by rw [State.trackPortion, if_pos ((FrameRecord.startsFrame_iff _ _ _ _).mpr h)]⟩
  · exact .inr ⟨h, by rw [State.trackPortion, if_neg fun hc => h ((FrameRecord.startsFrame_iff _ _ _ _).mp hc)]⟩

/-! The portions of a write in order (R9) -/

theorem State.handlePortions_append (s : State) (before after : List Portion) :
    s.handlePortions (before ++ after) =
      (((s.handlePortions before).1.handlePortions after).1,
        ⟨(s.handlePortions before).2.lanes ++ ((s.handlePortions before).1.handlePortions after).2.lanes,
          (s.handlePortions before).2.owner.or ((s.handlePortions before).1.handlePortions after).2.owner⟩) := by
  induction before generalizing s with
  | nil => simp [State.handlePortions]
  | cons p ps ih => simp [State.handlePortions, ih, Option.or_assoc]

/-- Whatever the handling of each portion keeps, the taking of a write keeps. -/
theorem State.handlePortions_keeps {P : State → Prop} (hp : ∀ s p, P s → P (s.handlePortion p).1) (s : State)
    (ps : List Portion) (h : P s) : P (s.handlePortions ps).1 := by
  induction ps generalizing s with
  | nil => exact h
  | cons p ps ih => exact ih _ (hp s p h)

end Sys2Proof.Machine
end

