-- ==== Sys2Proof/Laws/Traffic.lean ====
section
/-! SUPPORT. The spec lemmas of the pass-through unit's operations: what each can do, and when it does nothing. -/

namespace Sys2Proof.Machine

/-! Repeated steps -/

theorem repeatStep_keeps {P : State → Prop} {g : State → State} (hg : ∀ s, P s → P (g s)) (k : Nat) (s : State)
    (h : P s) : P (repeatStep k g s) := by
  induction k generalizing s with
  | zero => exact h
  | succ k ih => exact ih _ (hg s h)

theorem repeatStep_fixed {g : State → State} {s : State} (h : g s = s) (k : Nat) : repeatStep k g s = s := by
  induction k with
  | zero => rfl
  | succ k ih => rw [repeatStep, h, ih]

/-- A relation that every single step satisfies, and that composes, holds of the repeated step. -/
theorem repeatStep_rel {R : State → State → Prop} (hr : ∀ s, R s s) (ht : ∀ s t u, R s t → R t u → R s u)
    {g : State → State} (hg : ∀ s, R s (g s)) (k : Nat) (s : State) : R s (repeatStep k g s) := by
  induction k generalizing s with
  | zero => exact hr s
  | succ k ih => exact ht _ _ _ (hg s) (ih _)

/-! The answer order list -/

/-- The ready answer at the front of a tag's places. -/
theorem popReady_eq_some {t : Tag} {ps qs : List Place} {a : AnswerStatus} :
    popReady t ps = some (a, qs) ↔
      ∃ pre post, ps = pre ++ ⟨t, .ready a⟩ :: post ∧ (∀ p ∈ pre, p.tag ≠ t) ∧ qs = pre ++ post := by
  induction ps generalizing qs with
  | nil => simp [popReady]
  | cons p ps ih =>
    obtain ⟨tag, st⟩ := p
    by_cases ht : tag = t
    · subst ht
      cases st with
      | ready b =>
        simp only [popReady, if_true, Option.some.injEq, Prod.mk.injEq]
        constructor
        · rintro ⟨rfl, rfl⟩
          exact ⟨[], ps, rfl, by simp, rfl⟩
        · rintro ⟨pre, post, he, hp, rfl⟩
          cases pre with
          | nil => simp at he; exact ⟨he.1, he.2⟩
          | cons q pre => simp only [List.cons_append, List.cons.injEq] at he; exact absurd he.1.symm (fun hq => hp q (by simp) (by rw [hq]))
      | held =>
        simp only [popReady, if_true, reduceCtorEq, false_iff]
        rintro ⟨pre, post, he, hp, rfl⟩
        cases pre with
        | nil => simp at he
        | cons q pre => simp only [List.cons_append, List.cons.injEq] at he; exact hp q (by simp) (by rw [← he.1])
      | forwarded =>
        simp only [popReady, if_true, reduceCtorEq, false_iff]
        rintro ⟨pre, post, he, hp, rfl⟩
        cases pre with
        | nil => simp at he
        | cons q pre => simp only [List.cons_append, List.cons.injEq] at he; exact hp q (by simp) (by rw [← he.1])
    · simp only [popReady, if_neg ht, Option.map_eq_some_iff, Prod.exists, Prod.mk.injEq]
      constructor
      · rintro ⟨b, rs, h, rfl, rfl⟩
        obtain ⟨pre, post, rfl, hp, rfl⟩ := ih.mp h
        exact ⟨⟨tag, st⟩ :: pre, post, rfl, by simpa [ht] using hp, rfl⟩
      · rintro ⟨pre, post, he, hp, rfl⟩
        cases pre with
        | nil => simp only [List.nil_append, List.cons.injEq, Place.mk.injEq] at he; exact absurd he.1.1 ht
        | cons q pre =>
          simp only [List.cons_append, List.cons.injEq] at he
          obtain ⟨rfl, rfl⟩ := he
          exact ⟨a, pre ++ post, ih.mpr ⟨pre, post, rfl, fun p h => hp p (by simp [h]), rfl⟩, rfl, rfl⟩

theorem movePlace_eq_some {t : Tag} {old new : PlaceState} {ps qs : List Place} :
    movePlace t old new ps = some qs ↔
      ∃ pre post, ps = pre ++ ⟨t, old⟩ :: post ∧ (⟨t, old⟩ : Place) ∉ pre ∧ qs = pre ++ ⟨t, new⟩ :: post := by
  induction ps generalizing qs with
  | nil => simp [movePlace]
  | cons p ps ih =>
    obtain ⟨tag, st⟩ := p
    by_cases h : tag = t ∧ st = old
    · obtain ⟨rfl, rfl⟩ := h
      simp only [movePlace, and_self, if_true, Option.some.injEq]
      constructor
      · rintro rfl
        exact ⟨[], ps, rfl, by simp, rfl⟩
      · rintro ⟨pre, post, he, hp, rfl⟩
        cases pre with
        | nil => simp at he; rw [he]; rfl
        | cons q pre => simp only [List.cons_append, List.cons.injEq] at he; simp [he.1] at hp
    · simp only [movePlace, if_neg h, Option.map_eq_some_iff]
      constructor
      · rintro ⟨rs, hr, rfl⟩
        obtain ⟨pre, post, rfl, hp, rfl⟩ := ih.mp hr
        refine ⟨⟨tag, st⟩ :: pre, post, rfl, ?_, rfl⟩
        simp only [List.mem_cons, not_or]
        exact ⟨fun hc => h (by cases hc; exact ⟨rfl, rfl⟩), hp⟩
      · rintro ⟨pre, post, he, hp, rfl⟩
        cases pre with
        | nil => simp only [List.nil_append, List.cons.injEq, Place.mk.injEq] at he; exact absurd he.1 h
        | cons q pre =>
          simp only [List.cons_append, List.cons.injEq] at he
          obtain ⟨rfl, rfl⟩ := he
          exact ⟨pre ++ ⟨t, new⟩ :: post, ih.mpr ⟨pre, post, rfl, fun hc => hp (by simp [hc]), rfl⟩, rfl⟩

theorem movePlace_length {t : Tag} {old new : PlaceState} {ps qs : List Place} (h : movePlace t old new ps = some qs) :
    qs.length = ps.length := by
  obtain ⟨pre, post, rfl, -, rfl⟩ := movePlace_eq_some.mp h
  simp

/-- What the owing of an answer does. -/
theorem State.oweAnswer_cases (s : State) (t : Tag) (a : AnswerStatus) :
    (s.needsPlace t = true ∧ s.oweAnswer t a = { s with places := s.places ++ [⟨t, .ready a⟩] }) ∨
      (s.needsPlace t = false ∧ s.oweAnswer t a = { s with answers := s.answers ++ [⟨t, a⟩] }) := by
  cases h : s.needsPlace t
  · exact .inr ⟨rfl, by simp only [State.oweAnswer, h, Bool.false_eq_true, if_false]⟩
  · exact .inl ⟨rfl, by simp only [State.oweAnswer, h, if_true]⟩

/-- What the return of a tag's front answer does. -/
theorem State.answerOne_cases (s : State) (t : Tag) :
    (s.frontWaits t = true ∧ s.answerOne t = s) ∨
      ∃ pre post a, s.places = pre ++ ⟨t, .ready a⟩ :: post ∧ (∀ p ∈ pre, p.tag ≠ t) ∧
        s.answerOne t = { s with places := pre ++ post, answers := s.answers ++ [⟨t, a⟩] } := by
  unfold State.frontWaits State.answerOne
  cases h : popReady t s.places with
  | none => exact .inl ⟨rfl, rfl⟩
  | some out =>
    obtain ⟨a, qs⟩ := out
    obtain ⟨pre, post, hs, hp, rfl⟩ := popReady_eq_some.mp h
    exact .inr ⟨pre, post, a, hs, hp, rfl⟩

/-! Issue and release -/

theorem splitQueued_eq_some {q before after : List QueueEntry} {e : QueueEntry} :
    splitQueued q = some (before, e, after) ↔
      q = before ++ e :: after ∧ (∀ x ∈ before, x.state = .issued) ∧ e.state = .queued := by
  induction q generalizing before with
  | nil => simp [splitQueued]
  | cons x q ih =>
    cases hx : x.state with
    | queued =>
      simp only [splitQueued, hx, if_true, Option.some.injEq, Prod.mk.injEq]
      constructor
      · rintro ⟨rfl, rfl, rfl⟩
        exact ⟨rfl, by simp, hx⟩
      · rintro ⟨he, hb, hq⟩
        cases before with
        | nil => simp at he; exact ⟨rfl, he.1, he.2⟩
        | cons y b => simp only [List.cons_append, List.cons.injEq] at he; have := hb y (by simp); rw [← he.1, hx] at this; cases this
    | issued =>
      simp only [splitQueued, hx, reduceCtorEq, if_false, Option.map_eq_some_iff, Prod.exists, Prod.mk.injEq]
      constructor
      · rintro ⟨b, y, a, h, rfl, rfl, rfl⟩
        obtain ⟨rfl, hb, hq⟩ := ih.mp h
        exact ⟨rfl, by simpa [hx] using hb, hq⟩
      · rintro ⟨he, hb, hq⟩
        cases before with
        | nil => simp only [List.nil_append, List.cons.injEq] at he; rw [← he.1, hx] at hq; cases hq
        | cons y b =>
          simp only [List.cons_append, List.cons.injEq] at he
          obtain ⟨rfl, rfl⟩ := he
          exact ⟨b, e, after, ih.mpr ⟨rfl, fun z hz => hb z (by simp [hz]), hq⟩, rfl, rfl, rfl⟩

/-- What the issue of one entry does. -/
theorem State.issueOne_cases (s : State) :
    (s.canIssue = false ∧ s.issueOne = s) ∨
      ∃ before e after, s.queue = before ++ e :: after ∧ (∀ x ∈ before, x.state = .issued) ∧ e.state = .queued ∧
        s.issuedCount < 4 ∧ s.heldBack e = false ∧
        s.issueOne =
          { s with
            queue := before ++ { e with state := .issued } :: after
            presented := s.presented ++ [.write e.addr e.lanes e.tag] } := by
  unfold State.canIssue State.issueOne
  cases h : splitQueued s.queue with
  | none => exact .inl ⟨rfl, rfl⟩
  | some out =>
    obtain ⟨before, e, after⟩ := out
    obtain ⟨hs, hb, hq⟩ := splitQueued_eq_some.mp h
    by_cases hc : s.issuedCount < 4 ∧ s.heldBack e = false
    · refine .inr ⟨before, e, after, hs, hb, hq, hc.1, hc.2, ?_⟩
      simp only [Config.issueLimit]
      rw [if_pos hc]
    · refine .inl ⟨?_, ?_⟩
      · by_cases h1 : s.issuedCount < 4
        · have : s.heldBack e = true := by
            cases h2 : s.heldBack e
            · exact absurd ⟨h1, h2⟩ hc
            · rfl
          simp [this]
        · simp [h1]
      · simp only [Config.issueLimit]
        rw [if_neg hc]

/-- What the release of one held read does. -/
theorem State.releaseOne_cases (s : State) :
    (s.canRelease = false ∧ s.releaseOne = s) ∨
      ∃ h rest, s.held = h :: rest ∧ s.heldReady h = true ∧
        s.releaseOne =
          { s with
            held := rest
            places := (movePlace h.req.tag .held .forwarded s.places).getD s.places
            presented := s.presented ++ [.read h.req.addr h.req.length h.req.tag] } := by
  unfold State.canRelease State.releaseOne
  cases hs : s.held with
  | nil => exact .inl ⟨rfl, rfl⟩
  | cons h rest =>
    cases hr : s.heldReady h
    · exact .inl ⟨hr, by simp only [hr, Bool.false_eq_true, if_false]⟩
    · exact .inr ⟨h, rest, rfl, hr, by simp only [hr, if_true]; rfl⟩

theorem State.issueOne_blocked {s : State} (h : s.canIssue = false) : s.issueOne = s := by
  rcases s.issueOne_cases with ⟨-, hs⟩ | ⟨before, e, after, hq, hb, he, h1, h2, -⟩
  · exact hs
  · simp [State.canIssue, splitQueued_eq_some.mpr ⟨hq, hb, he⟩, h1, h2] at h

theorem State.releaseOne_blocked {s : State} (h : s.canRelease = false) : s.releaseOne = s := by
  rcases s.releaseOne_cases with ⟨-, hs⟩ | ⟨r, rest, hh, hr, -⟩
  · exact hs
  · simp [State.canRelease, hh, hr] at h

/-- Where nothing can be released or issued, nothing moves on. -/
theorem State.advance_blocked {s : State} (hr : s.canRelease = false) (hi : s.canIssue = false) : s.advance = s := by
  rw [State.advance, repeatStep_fixed (State.releaseOne_blocked hr), repeatStep_fixed (State.issueOne_blocked hi)]

theorem State.takeWaiting_stops {s : State} {q : UpstreamRequest} {rest : List UpstreamRequest}
    (h : s.canTake q = false) : s.takeWaiting (q :: rest) = { s with upstream := q :: rest } := by
  simp only [State.takeWaiting, h, Bool.false_eq_true, if_false]

theorem State.takeWaiting_takes {s : State} {q : UpstreamRequest} {rest : List UpstreamRequest}
    (h : s.canTake q = true) : s.takeWaiting (q :: rest) = (s.takeRequest q).advance.takeWaiting rest := by
  simp only [State.takeWaiting, h, if_true]

/-- A settled state has nothing left to happen. -/
theorem State.settle_settled {s : State} (hr : s.resetAsserted = false) (h : s.Settled) : s.settle = s := by
  rcases h with h | ⟨h1, h2, h3, -⟩
  · rw [hr] at h; cases h
  · rw [State.settle, State.advance_blocked h1 h2]
    cases hu : s.upstream with
    | nil => simp only [State.takeWaiting, ← hu]
    | cons q rest =>
      have : s.canTake q = false := by simpa [State.canTakeHead, hu] using h3
      rw [State.takeWaiting_stops this, ← hu]

/-- Whatever releases, issues and takings keep, `settle` keeps. -/
theorem State.advance_keeps {P : State → Prop} (h1 : ∀ s, P s → P s.releaseOne) (h2 : ∀ s, P s → P s.issueOne)
    (s : State) (h : P s) : P s.advance :=
  repeatStep_keeps h2 _ _ (repeatStep_keeps h1 _ _ h)

theorem State.takeWaiting_keeps {P : State → Prop} (h1 : ∀ s, P s → P s.advance)
    (h2 : ∀ s q, P s → s.canTake q = true → P (s.takeRequest q)) (h3 : ∀ s u, P s → P { s with upstream := u })
    (qs : List UpstreamRequest) (s : State) (h : P s) : P (s.takeWaiting qs) := by
  induction qs generalizing s with
  | nil => exact h3 s [] h
  | cons q rest ih =>
    cases hc : s.canTake q
    · rw [State.takeWaiting_stops hc]; exact h3 s _ h
    · rw [State.takeWaiting_takes hc]; exact ih _ (h1 _ (h2 s q h hc))

/-! What one event performs, in the terms of the statements -/

theorem movePlace_forwardFirst (t : Tag) (ps : List Place) :
    (movePlace t .held .forwarded ps).getD ps = forwardFirst t ps := by
  induction ps with
  | nil => rfl
  | cons p ps ih =>
    obtain ⟨tag, st⟩ := p
    by_cases h : tag = t ∧ st = .held
    · obtain ⟨rfl, rfl⟩ := h
      simp [movePlace, forwardFirst]
    · have h' : ¬(⟨tag, st⟩ : Place) = ⟨t, .held⟩ := fun hc => h (by cases hc; exact ⟨rfl, rfl⟩)
      rw [forwardFirst, if_neg h', ← ih]
      simp only [movePlace, if_neg h]
      cases movePlace t .held .forwarded ps <;> rfl

theorem State.heldReady_iff (s : State) (h : HeldRead) :
    s.heldReady h = true ↔
      ∀ m, h.overlapMark = some m → ∀ x ∈ s.queue, seqAtOrBelow x.seq m = false ∨ x.overlapsRead h.req = false := by
  unfold State.heldReady
  cases hm : h.overlapMark with
  | none => simp
  | some m =>
    simp only [Bool.not_eq_true', List.any_eq_false, Bool.and_eq_true, not_and, Bool.not_eq_true, Option.some.injEq,
      forall_eq']
    exact forall₂_congr fun x _ => by cases seqAtOrBelow x.seq m <;> simp

/-- What the repeated release of held reads does: the oldest ones that are ready are presented in order and their places
forwarded, and the next one, if there is one, is not ready (R147). -/
theorem State.releases_spec (k : Nat) (s : State) (hk : s.held.length ≤ k) :
    ∃ released left,
      s.held = released ++ left ∧ (∀ h ∈ released, s.heldReady h = true) ∧
        repeatStep k State.releaseOne s =
          { s with
            held := left
            places := forwardAll released s.places
            presented := s.presented ++ released.map HeldRead.presentedAs } ∧
        (repeatStep k State.releaseOne s).canRelease = false := by
  induction k generalizing s with
  | zero =>
    have hn : s.held = [] := List.length_eq_zero_iff.mp (by omega)
    refine ⟨[], [], hn, by simp, ?_, by simp [repeatStep, State.canRelease, hn]⟩
    cases s
    simp_all [repeatStep, forwardAll]
  | succ k ih =>
    rcases s.releaseOne_cases with ⟨hc, he⟩ | ⟨h, rest, hs, hr, he⟩
    · refine ⟨[], s.held, rfl, by simp, ?_, ?_⟩
      · simp [repeatStep_fixed he, forwardAll]
      · rw [repeatStep_fixed he]; exact hc
    · rw [movePlace_forwardFirst] at he
      have hl : (s.releaseOne).held.length ≤ k := by rw [he]; simp [hs] at hk; exact hk
      obtain ⟨released, left, h1, h2, h3, h4⟩ := ih _ hl
      refine ⟨h :: released, left, ?_, ?_, ?_, h4⟩
      · rw [he] at h1; simp at h1; rw [hs, h1]; rfl
      · intro x hx
        rcases List.mem_cons.mp hx with rfl | hx
        · exact hr
        · have := h2 x hx; rw [he] at this; exact this
      · rw [repeatStep, h3, he]
        simp [forwardAll, HeldRead.presentedAs]

theorem markIssued_split {before after : List QueueEntry} {e : QueueEntry} (hb : ∀ x ∈ before, x.state = .issued)
    (he : e.state = .queued) (k : Nat) :
    markIssued (k + 1) (before ++ e :: after) = before ++ { e with state := .issued } :: markIssued k after := by
  induction before with
  | nil => simp [markIssued, he]
  | cons x before ih =>
    have hx : x.state = .issued := hb x (by simp)
    simp only [List.cons_append, markIssued, hx, reduceCtorEq, if_false]
    rw [ih fun y hy => hb y (by simp [hy])]

theorem markIssued_zero (q : List QueueEntry) : markIssued 0 q = q := by cases q <;> rfl

theorem markIssued_append {before after : List QueueEntry} (hb : ∀ x ∈ before, x.state = .issued) (k : Nat) :
    markIssued k (before ++ after) = before ++ markIssued k after := by
  induction before with
  | nil => rfl
  | cons x before ih =>
    have hx : x.state = .issued := hb x (by simp)
    cases k with
    | zero => simp [markIssued_zero]
    | succ k =>
      simp only [List.cons_append, markIssued, hx, reduceCtorEq, if_false]
      rw [ih fun y hy => hb y (by simp [hy])]

theorem queued_split {before after : List QueueEntry} {e : QueueEntry} (hb : ∀ x ∈ before, x.state = .issued)
    (he : e.state = .queued) :
    (before ++ e :: after).filter (fun x => x.state == .queued) = e :: after.filter fun x => x.state == .queued := by
  rw [List.filter_append, List.filter_cons_of_pos (by simp [he]),
    List.filter_eq_nil_iff.mpr fun x hx => by simp [hb x hx], List.nil_append]

/-- What the repeated issue of entries does: the oldest QUEUED ones are presented in order and become ISSUED, none of
them held back and at most four ISSUED at once; after four attempts no more can be (R143). -/
theorem State.issues_spec (n : Nat) (s : State) :
    ∃ k, k ≤ n ∧
      repeatStep n State.issueOne s =
        { s with queue := markIssued k s.queue, presented := s.presented ++ (queuedWrites s.queue).take k } ∧
      (∀ x ∈ (s.queue.filter fun x => x.state == .queued).take k, s.heldBack x = false) ∧
      (k = 0 ∨ (repeatStep n State.issueOne s).issuedCount ≤ 4) ∧
      ((repeatStep n State.issueOne s).canIssue = false ∨
        s.issuedCount + n = (repeatStep n State.issueOne s).issuedCount) := by
  induction n generalizing s with
  | zero =>
    exact ⟨0, Nat.le_refl 0, by simp [repeatStep, markIssued_zero], by simp, .inl rfl, .inr (by simp [repeatStep])⟩
  | succ n ih =>
    rcases s.issueOne_cases with ⟨hc, he⟩ | ⟨before, e, after, hq, hb, hs, h4, hh, he⟩
    · rw [repeatStep_fixed he]
      exact ⟨0, Nat.zero_le _, by simp [markIssued_zero], by simp, .inl rfl, .inl hc⟩
    · have hcount : s.issueOne.issuedCount = s.issuedCount + 1 := by
        rw [he, State.issuedCount, State.issuedCount, hq]
        simp [List.countP_append, hs]
        omega
      have hb' : ∀ x ∈ before ++ [{ e with state := .issued }], x.state = .issued := by
        intro x hx
        rcases List.mem_append.mp hx with hx | hx
        · exact hb x hx
        · rw [List.mem_singleton] at hx; rw [hx]
      have hqueue : s.issueOne.queue = before ++ [{ e with state := .issued }] ++ after := by
        rw [he]; simp
      have hf : s.issueOne.queue.filter (fun x => x.state == .queued) = after.filter fun x => x.state == .queued := by
        rw [hqueue, List.filter_append, List.filter_eq_nil_iff.mpr fun x hx => by simp [hb' x hx], List.nil_append]
      obtain ⟨k, hk, h1, h2, h3, h5⟩ := ih s.issueOne
      have hfs : s.queue.filter (fun x => x.state == .queued) = e :: after.filter fun x => x.state == .queued := by
        rw [hq]; exact queued_split hb hs
      refine ⟨k + 1, by omega, ?_, ?_, .inr ?_, ?_⟩
      · rw [repeatStep, h1]
        have hw : queuedWrites s.issueOne.queue = queuedWrites after := by simp only [queuedWrites, hf]
        rw [hw, hqueue, markIssued_append hb', he]
        simp only [queuedWrites, hfs, List.map_cons, List.take_succ_cons]
        simp [hq, markIssued_split hb hs]
      · rw [hfs]
        intro x hx
        rw [List.take_succ_cons] at hx
        rcases List.mem_cons.mp hx with rfl | hx
        · exact hh
        · have := h2 x (by rw [hf]; exact hx)
          rw [he] at this
          exact this
      · rcases h3 with h3 | h3
        · subst h3
          rw [repeatStep, h1]
          simp only [markIssued_zero]
          show s.issueOne.issuedCount ≤ 4
          omega
        · exact h3
      · rcases h5 with h5 | h5
        · exact .inl h5
        · exact .inr (by rw [repeatStep, ← h5, hcount]; omega)

theorem State.canIssue_full {s : State} (h : 4 ≤ s.issuedCount) : s.canIssue = false := by
  unfold State.canIssue
  cases splitQueued s.queue with
  | none => rfl
  | some out => simp [show ¬s.issuedCount < 4 by omega]

theorem markIssued_any {f : QueueEntry → Bool} (hf : ∀ e st, f { e with state := st } = f e) (k : Nat)
    (q : List QueueEntry) : (markIssued k q).any f = q.any f := by
  induction q generalizing k with
  | nil => cases k <;> rfl
  | cons e q ih =>
    cases k with
    | zero => rfl
    | succ k =>
      simp only [markIssued]
      split <;> simp [ih, hf]

theorem State.heldReady_markIssued (s t : State) (k : Nat) (h : HeldRead) (hq : t.queue = markIssued k s.queue) :
    t.heldReady h = s.heldReady h := by
  unfold State.heldReady
  cases h.overlapMark with
  | none => rfl
  | some m =>
    simp only [hq]
    rw [markIssued_any]
    exact fun _ _ => rfl

/-- What follows an event before any waiting request is taken: releases, oldest first, and then issues, in queue order,
until no more can be (R143, R147). -/
theorem State.advance_spec (s : State) :
    ∃ released left k,
      s.held = released ++ left ∧ (∀ h ∈ released, s.heldReady h = true) ∧
        s.advance =
          { s with
            held := left
            places := forwardAll released s.places
            queue := markIssued k s.queue
            presented := s.presented ++ released.map HeldRead.presentedAs ++ (queuedWrites s.queue).take k } ∧
        (∀ x ∈ (s.queue.filter fun x => x.state == .queued).take k, s.advance.heldBack x = false) ∧
        (k = 0 ∨ s.advance.issuedCount ≤ 4) ∧ s.advance.canRelease = false ∧ s.advance.canIssue = false := by
  obtain ⟨released, left, h1, h2, h3, h4⟩ := State.releases_spec s.held.length s (Nat.le_refl _)
  obtain ⟨k, hk, e1, e2, e3, e4⟩ := State.issues_spec Config.issueLimit (repeatStep s.held.length State.releaseOne s)
  have ha : s.advance = repeatStep Config.issueLimit State.issueOne (repeatStep s.held.length State.releaseOne s) := rfl
  rw [← ha] at e1 e3 e4
  refine ⟨released, left, k, h1, h2, ?_, ?_, e3, ?_, ?_⟩
  · rw [e1, h3]
  · intro x hx
    have := e2 x (by rw [h3]; exact hx)
    rw [e1]
    exact this
  · have hh : s.advance.held = (repeatStep s.held.length State.releaseOne s).held := by rw [e1]
    have hq : s.advance.queue = markIssued k (repeatStep s.held.length State.releaseOne s).queue := by rw [e1]
    unfold State.canRelease at h4 ⊢
    rw [hh]
    cases hc : (repeatStep s.held.length State.releaseOne s).held with
    | nil => rfl
    | cons x rest =>
      rw [hc] at h4
      exact (State.heldReady_markIssued _ _ k x hq).trans h4
  · rcases e4 with e4 | e4
    · exact e4
    · exact State.canIssue_full (by rw [← e4]; simp [Config.issueLimit])

theorem State.afterTaking_cons (s : State) (q : UpstreamRequest) (rest : List UpstreamRequest) :
    s.afterTaking (q :: rest) = (s.takeRequest q).advance.afterTaking rest := rfl

/-- What the taking of waiting requests does: they are taken in order, each when it can be, up to the first that cannot
(R139). -/
theorem State.takeWaiting_spec (qs : List UpstreamRequest) (s : State) :
    ∃ taken left,
      qs = taken ++ left ∧
        (∀ before q after, taken = before ++ q :: after → (s.afterTaking before).canTake q = true) ∧
        (∀ q rest, left = q :: rest → (s.afterTaking taken).canTake q = false) ∧
        s.takeWaiting qs = { s.afterTaking taken with upstream := left } := by
  induction qs generalizing s with
  | nil => exact ⟨[], [], rfl, by simp, by simp, rfl⟩
  | cons q rest ih =>
    cases hc : s.canTake q
    · refine ⟨[], q :: rest, rfl, by simp, ?_, State.takeWaiting_stops hc⟩
      rintro x r ⟨⟩
      exact hc
    · obtain ⟨taken, left, h1, h2, h3, h4⟩ := ih (s.takeRequest q).advance
      refine ⟨q :: taken, left, by rw [h1]; rfl, ?_, h3, by rw [State.takeWaiting_takes hc, h4]; rfl⟩
      intro before x after he
      cases before with
      | nil => simp at he; rw [← he.1]; exact hc
      | cons y before =>
        simp only [List.cons_append, List.cons.injEq] at he
        rw [← he.1]
        exact h2 before x after he.2

theorem State.canTake_upstream (s : State) (us : List UpstreamRequest) (q : UpstreamRequest) :
    ({ s with upstream := us } : State).canTake q = s.canTake q := rfl

/-- What `settle` does, once what can be released and issued is: the waiting requests are taken (R139). -/
theorem State.settle_takesWaiting (s : State) : s.advance.TakesWaiting s.settle := by
  obtain ⟨taken, left, h1, h2, h3, h4⟩ := State.takeWaiting_spec s.advance.upstream s.advance
  have hs : s.settle = { s.advance.afterTaking taken with upstream := left } := h4
  rw [hs]
  refine ⟨taken, h1, h2, ?_, rfl⟩
  cases left with
  | nil => rfl
  | cons q rest => exact h3 q rest rfl

/-! Completions and the drain -/

/-- What a completion does to the head of the queue. -/
theorem State.completeHead_cases (s : State) (st : CompletionStatus) :
    ((∀ e rest, s.queue = e :: rest → e.state = .queued) ∧ s.completeHead st = s) ∨
      ∃ e rest, s.queue = e :: rest ∧ e.state = .issued ∧
        s.completeHead st =
          { s with
            queue := rest
            notices := postAll s.notices
              (if st = .fault then [.writeFault e.owner e.addr e.lanes.length e.tag] else []) } := by
  unfold State.completeHead
  cases hq : s.queue with
  | nil => exact .inl ⟨by simp, rfl⟩
  | cons e rest =>
    cases he : e.state
    · exact .inl ⟨by rintro x r hx; cases hx; exact he, by simp only [he]⟩
    · refine .inr ⟨e, rest, rfl, he, ?_⟩
      simp only [he]
      cases st <;> rfl

/-- What the meeting of a drain does. -/
theorem State.meetDrain_cases (s : State) :
    ((s.drain.all fun d => s.drainWaits d) = true ∧ s.meetDrain = s) ∨
      ∃ d, s.drain = some d ∧ s.drainWaits d = false ∧
        s.meetDrain = { s with drain := none, notices := postTo s.notices (.drained d.id) } := by
  unfold State.meetDrain
  cases hd : s.drain with
  | none => exact .inl ⟨rfl, rfl⟩
  | some d =>
    cases hw : s.drainWaits d
    · exact .inr ⟨d, rfl, hw, by simp only [hw, Bool.false_eq_true, if_false]; rfl⟩
    · exact .inl ⟨hw, by simp only [hw, if_true]⟩

end Sys2Proof.Machine
end

