-- ==== Sys2Proof/Tests/Slice0.lean ====
section
/-! SUPPORT. The model's own tests: an ill-formed term for each check of `wf`, the manual's worked examples, and for
every statement with hypotheses a state and operands that meet them, at the edges of its clauses. -/

namespace Sys2Proof.Tests

open Sys2Proof.Machine

set_option maxRecDepth 16000

/-! ### Small states and frames -/

/-- A good frame with sequence 7 and the given payload. -/
def frame (p : List Byte) : CommandFrame := ⟨0x07, p, [], []⟩

/-- The state a command leaves. -/
def after (i : Instr) (s : State) : State :=
  match exec i s with
  | .next t => t
  | .fault _ => s
  | .refused _ => s

/-- The result code and payload a command leaves in the record. -/
def result (i : Instr) (s : State) : ResultCode × List Byte :=
  ((after i s).record.code, (after i s).record.payload)

/-- One Y8 buffer of 16 rows at 1000H, a deadline of 3 ticks, frame notices on. -/
def oneBuffer : SurfaceDef := ⟨0x1000, 64, 16, 16, .y8, 1, 1024, 2, 3, true⟩

/-- Three adjacent YUYV buffers: surface 2 of the manual's examples (section 1.3). -/
def surface2 : SurfaceDef := ⟨0x80000000, 2560, 1280, 720, .yuyv, 3, 0x1C2000, 8, 500, false⟩

def aBox : Item := .box ⟨0, 0, 8, 8, 0x000000F0⟩ .halfBlend
def aRedact : Item := .redact ⟨0, 0, 4, 4, 0x00000010⟩
def aText : Item := .text ⟨0, 0, 5, 1, 1, 0, 0x11, 0x22, 0x33, .opaqueBlend⟩

/-- Surface 1 DEFINED with one staged TEXT item that names slot 5. -/
def defined1 : State :=
  ((State.reset.setSurf 1 { Surface.newlyDefined oneBuffer with staged := [aText] }).setSlot 5 ⟨[65], 1⟩)

/-- Surface 1 LIVE before its first frame, one BOX active and one REDACT staged. -/
def liveSurface : Surface :=
  ⟨.live, some oneBuffer, [aRedact], some .b, [aBox], some .a, false, none, none, ⟨none, 0, 0, none⟩⟩

def live1 : State := { State.reset.setSurf 1 liveSurface with freeCount := 94 }

/-- The same with a commit pending and one tick left. -/
def pending1 : State := live1.setSurf 1 { liveSurface with commitPending := true, deadlineRemaining := some 1 }

/-- The same RETIRING, with one tick left. -/
def retiring1 : State := live1.setSurf 1 { liveSurface with state := .retiring, deadlineRemaining := some 1 }

/-- The same with frame 1 begun on buffer 0, its high-water row 5. -/
def inFrame1 : State := live1.setSurf 1 { liveSurface with frame := ⟨some 0, 5, 1, some .first⟩ }

/-- `n` enabled bytes of value `b`. -/
def bytes (n : Nat) (b : Byte) : List Lane := List.replicate n ⟨b, true⟩

/-- A write at `a` of `n` enabled bytes under tag 3. -/
def write (a : Address) (n : Nat) : WriteRequest := ⟨a, 3, bytes n 0x60⟩

/-- A state with two entries, the head ISSUED, and a read held behind the second. -/
def busy : State :=
  { State.reset with
    queue := [⟨0, 0x100, bytes 4 1, 3, none, .issued⟩, ⟨1, 0x200, bytes 4 2, 3, none, .issued⟩]
    nextSeq := 2
    held := [⟨⟨0x200, 4, 8⟩, some 1, 2⟩]
    places := [⟨4, .held⟩, ⟨4, .ready .posted⟩, ⟨6, .forwarded⟩, ⟨6, .ready .posted⟩, ⟨6, .forwarded⟩]
    drain := some ⟨1, 9⟩ }

/-- The busy state with a read that waits upstream for a place on the answer order list (R139). -/
def crowded : State :=
  { busy with
    places := busy.places ++ List.replicate 27 ⟨6, .ready .posted⟩
    upstream := [.read ⟨0x900, 7, 4⟩] }

/-- The hard-reset state while RESETN is asserted. -/
def inReset : State := { State.reset with resetAsserted := true }

/-! ### Well-formedness: an ill-formed term for each check is refused -/

theorem test_wf_payload_too_long : (Instr.nop (frame (List.replicate 65 0))).wf = false := by decide
theorem test_wf_payload_longest : (Instr.nop (frame (List.replicate 64 0))).wf = true := by decide
theorem test_wf_good_frame_is_not_bad : (Instr.badFrame ⟨[0, 0, 0, 0], []⟩).wf = false := by decide
theorem test_wf_tail_too_long : (Instr.nop { frame [] with tail := List.replicate 8 true }).wf = false := by decide
theorem test_wf_bad_tail_too_long : (Instr.badFrame ⟨[0x62], List.replicate 8 true⟩).wf = false := by decide
theorem test_wf_empty_transaction : (Instr.badFrame ⟨[], List.replicate 7 true⟩).wf = true := by decide
theorem test_wf_known_number_is_not_bad : (Instr.badCommand 0x10 (frame [])).wf = false := by decide
theorem test_wf_write_empty : (Instr.upstreamWrite ⟨0, 0, []⟩).wf = false := by decide
theorem test_wf_write_too_long : (Instr.upstreamWrite (write 0 257)).wf = false := by decide
theorem test_wf_read_too_long : (Instr.upstreamRead ⟨0, 0, 257⟩).wf = false := by decide
theorem test_wf_read_empty : (Instr.upstreamRead ⟨0, 0, 0⟩).wf = false := by decide
theorem test_wf_response_empty : (Instr.readResponse 0 (.ok [])).wf = false := by decide
theorem test_wf_frame_rows_check_payload :
    [Instr.softReset, .defineSurface, .activateSurface, .retireSurface, .releaseSurface, .readSurface, .addItem,
      .setItem, .removeItem, .moveItem, .clearStaged, .cloneActive, .selectPage, .readItem, .commit, .cancelCommit,
      .writeGlyph, .writePageHeader, .readGlyph, .writeString, .readString, .setClock, .holdClock, .adjustClock,
      .readClock, .setBypass, .drain, .readStatus, .nextNotice, .badCommand 0x7F].all
        (fun row => !(row (frame (List.replicate 65 0))).wf) = true := by decide

/-! ### The configuration port -/

/-- Section 10.3, R172: the CRC after each byte of the READ STATUS frame. -/
theorem test_crc_read_status : crc [0x62] = 0x29 ∧ crc [0x62, 0x01] = 0xD8 ∧ crc [0x62, 0x01, 0x00] = 0x06 := by decide

theorem test_first_result_frame : resultFrame LastResult.reset = [0, 0, 0, 0, 0] := by decide

theorem test_bits_of_a_frame :
    decodeTransactionBits (bitsOfBytes [0x62, 0x01, 0x00, 0x06] ++ [true, false, true])
      = .readStatus ⟨0x01, [], [], [true, false, true]⟩ := by decide

theorem test_bytes_after_the_crc_are_ignored :
    decodeTransaction [0x62, 0x01, 0x00, 0x06, 0xFF] [] = .readStatus ⟨0x01, [], [0xFF], []⟩ := by decide

theorem test_nop_carries_the_result_out :
    (after (.nop ⟨0, [], [0, 0], []⟩) (after (.readSurface (frame [3])) State.reset)).misoOut
      = bitsOfBytes [0x00, 0x07, 0x14, 0x01, 0x00, crc [0x00, 0x07, 0x14, 0x01, 0x00]] := by decide

/-- The first 13 bits of the result go out with one byte and 5 bits of the next. -/
theorem test_incomplete_byte_carries_bits_out :
    (after (.badFrame ⟨[0x62], [true, true, true, true, true]⟩) (after (.readSurface (frame [3])) State.reset)).misoOut
      = bitsOfBytes [0x00] ++ [false, false, false, false, false] := by decide

theorem test_empty_transaction :
    let s := after (.badFrame ⟨[0x62, 0x01], []⟩) State.reset
    after (.badFrame ⟨[], List.replicate 7 true⟩) s = { s with misoOut := (bitsOfByte 0x01).take 7 } := by decide

/-- A transaction of pin edges is its row, and one that a reset abandons is none; the link waits for the rise. -/
theorem test_pin_edges :
    let bits := bitsOfBytes [0x00, 0x00, 0x00, 0x00]
    Link.idle.rows (.sckRise true :: .sckFall :: transactionEdges bits) = [.nop ⟨0, [], [], []⟩] ∧
      Link.idle.rows (.csnFall :: .sckRise true :: .resetnFall :: .sckFall :: .resetnRise :: .sckRise true :: .csnRise
          :: transactionEdges [])
        = [.hardReset (some []), .resetnRelease true, .badFrame ⟨[], []⟩] ∧
      Link.idle.rows [.resetnFall, .csnFall, .sckRise true, .sckFall, .csnRise, .resetnRise]
        = [.hardReset none, .resetnRelease false] := by decide

/-- CFG_MISO: not driven while CFG_CSN is high, the first bit from its fall, 00H in an abandoned transaction. -/
theorem test_miso_levels :
    Link.idle.miso [true] = none ∧ (Link.idle.after [.csnFall]).miso [true] = some true ∧
      (Link.idle.after [.csnFall, .sckRise true, .sckFall]).miso [true, false, true] = some false ∧
      (Link.idle.after [.csnFall, .resetnFall]).miso [true] = some false ∧
      (Link.idle.after [.csnFall, .resetnFall, .resetnRise]).miso [true] = some false := by decide

theorem test_nop_with_payload : result (.nop (frame [1])) State.reset = (.badArg, []) := by decide

theorem test_bad_frame : (after (.badFrame ⟨[0x62, 0x01], []⟩) State.reset).record = ⟨.badFrame, 0x01, 0x62, []⟩ := by decide

theorem test_bad_command : (after (.badCommand 0x7F (frame [1])) State.reset).record = ⟨.badCommand, 7, 0x7F, []⟩ := by
  decide

theorem test_soft_reset_frees :
    let t := after (.softReset (frame [])) defined1
    (t.surf 1).state = .vacant ∧ t.freeCount = 96 ∧ t.slot 5 = ⟨[65], 0⟩ := by decide

theorem test_hard_reset_keeps_waiting_requests :
    let t := after (.hardReset none) { live1 with upstream := [.read ⟨0, 1, 4⟩] }
    (t.surf 1).state = .vacant ∧ t.resetAsserted = true ∧ t.upstream = [.read ⟨0, 1, 4⟩] := by decide

theorem test_release_takes_the_waiting_write :
    let t := after (.resetnRelease false) { inReset with upstream := [.write (write 0x1000 2)] }
    t.queue = [⟨0, 0x1000, bytes 2 0x60, 3, none, .issued⟩] ∧ t.answers = [⟨3, .posted⟩] ∧ t.upstream = [] := by decide

/-! ### Surfaces -/

theorem test_define_vacant :
    ((after (.defineSurface (frame (0x01 :: surfaceDefBytes oneBuffer))) State.reset).surf 1)
      = Surface.newlyDefined oneBuffer := by decide

theorem test_define_live_gives_state :
    result (.defineSurface (frame (0x01 :: List.replicate 23 0xFF))) live1 = (.state, []) := by decide

theorem test_activate : ((after (.activateSurface (frame [1])) defined1).surf 1).active = [aText] := by decide

theorem test_activate_overlap :
    result (.activateSurface (frame [0])) (live1.setSurf 0 (.newlyDefined oneBuffer)) = (.overlap, [1]) := by decide

theorem test_retire_arms_the_deadline :
    ((after (.retireSurface (frame [1])) pending1).surf 1).deadlineRemaining = some 3 := by decide

theorem test_release_frees :
    let t := after (.releaseSurface (frame [1])) { defined1 with freeCount := 95 }
    t.surf 1 = .vacant ∧ t.freeCount = 96 ∧ (t.slot 5).refCount = 0 := by decide

theorem test_read_surface_length : (result (.readSurface (frame [1])) live1).2.length = 57 := by decide
theorem test_read_surface_vacant : result (.readSurface (frame [1])) State.reset = (.ok, [0x00]) := by decide

/-! ### Items -/

theorem test_add_item :
    let t := after (.addItem (frame (0x01 :: itemBytes aText))) defined1
    t.record.payload = [1, 95] ∧ (t.surf 1).staged = [aText, aText] ∧ (t.slot 5).refCount = 2 := by decide

theorem test_add_redact_under_bypass :
    result (.addItem (frame (0x01 :: itemBytes aRedact))) { defined1 with bypass := true } = (.locked, []) := by decide

theorem test_set_item :
    let t := after (.setItem (frame (0x01 :: 0x00 :: itemBytes aBox))) defined1
    (t.surf 1).staged = [aBox] ∧ (t.slot 5).refCount = 0 ∧ t.freeCount = 96 := by decide

theorem test_remove_item : result (.removeItem (frame [1, 0])) { defined1 with freeCount := 95 } = (.ok, [96]) := by
  decide

theorem test_move_item :
    ((after (.moveItem (frame [1, 0, 2])) (live1.setStaged 1 [aBox, aText, aRedact])).surf 1).staged
      = [aText, aRedact, aBox] := by decide

theorem test_clear_staged : result (.clearStaged (frame [1])) { defined1 with freeCount := 95 } = (.ok, [96]) := by
  decide

theorem test_clone_active :
    let t := after (.cloneActive (frame [1])) live1
    (t.surf 1).staged = [aBox] ∧ (t.surf 1).stagedPage = some .a ∧ t.record.payload = [1, 94] := by decide

theorem test_clone_no_item :
    result (.cloneActive (frame [1])) { live1.setStaged 1 [] with freeCount := 0 } = (.noItem, [1, 0]) := by decide

theorem test_select_page : ((after (.selectPage (frame [1, 1])) defined1).surf 1).stagedPage = some .b := by decide

theorem test_read_item : result (.readItem (frame [1, 1, 0])) live1 = (.ok, itemBytes aBox) := by decide
theorem test_read_item_beyond : result (.readItem (frame [1, 1, 1])) live1 = (.badArg, []) := by decide

/-! ### Commits -/

theorem test_commit : result (.commit (frame [1])) live1 = (.ok, [1, 0, 3]) := by decide
theorem test_commit_again : result (.commit (frame [1])) pending1 = (.ok, [1, 0, 1]) := by decide
theorem test_cancel : ((after (.cancelCommit (frame [1])) pending1).surf 1).commitPending = false := by decide
theorem test_cancel_too_late : result (.cancelCommit (frame [1])) live1 = (.tooLate, [0, 0, 0, 0, 0]) := by decide

theorem test_tick_forces_the_commit :
    let t := after .tick pending1
    (t.surf 1).active = [aRedact] ∧ t.freeCount = 95 ∧ t.notices = [.commitForced 1 0] := by decide

theorem test_tick_forces_the_retirement :
    let t := after .tick retiring1
    (t.surf 1).state = .defined ∧ t.notices = [.retired 1 0 true] := by decide

theorem test_forced_commit_row :
    ((after (.forcedCommit 1) (pending1.setSurf 1 { pending1.surf 1 with deadlineRemaining := some 0 })).surf 1).active
      = [aRedact] := by decide

theorem test_forced_retirement_row :
    ((after (.forcedRetirement 1) (retiring1.setSurf 1 { retiring1.surf 1 with deadlineRemaining := some 0 })).surf
      1).state = .defined := by decide

/-! ### Stores -/

/-- R184's example row. -/
theorem test_glyph_row :
    (cellOfBytes [0x05, 0x82, 0x53]).toList.take 12
        = [.clear, .clear, .ink, .ink, .edge, .clear, .clear, .edge, .ink, .ink, .clear, .shade] ∧
      bytesOfShades [.clear, .clear, .ink, .ink, .edge, .clear, .clear, .edge, .ink, .ink, .clear, .shade]
        = [0x05, 0x82, 0x53] := by decide

theorem test_write_glyph_in_use :
    result (.writeGlyph (frame (0x00 :: 0x41 :: List.replicate 60 0))) live1 = (.inUse, []) := by decide

theorem test_write_glyph :
    (((after (.writeGlyph (frame (0x01 :: 0x41 :: List.replicate 60 0x55))) live1).pageB.cells[65])[0]) = .ink := by
  decide

theorem test_write_header :
    (after (.writePageHeader (frame [1, 48, 65, 80, 100])) live1).pageB.header = ⟨48, 65, 80, 100⟩ := by decide

theorem test_read_header : result (.readGlyph (frame [0, 0xFF])) live1 = (.ok, [0, 0, 0, 0, 1]) := by decide
theorem test_read_glyph : result (.readGlyph (frame [0, 0x7F])) live1 = (.ok, List.replicate 60 0) := by decide

theorem test_write_string :
    (after (.writeString (frame [6, 2, 0x41, 0x80])) defined1).slot 6 = ⟨[0x41, 0x80], 0⟩ := by decide

theorem test_write_string_in_use : result (.writeString (frame [5, 0])) defined1 = (.inUse, []) := by decide
theorem test_read_string : result (.readString (frame [5])) defined1 = (.ok, [1, 65, 1]) := by decide

/-! ### The clock -/

theorem test_set_clock :
    (after (.setClock (frame (clockBytes ⟨2031, 5, 14, 8, 15, 30, 250⟩))) State.reset).clock
      = ⟨2031, 5, 14, 8, 15, 30, 250⟩ := by decide

theorem test_hold_clock : (after (.holdClock (frame [])) { State.reset with clockState := .running }).clockState
    = .stopped := by decide

/-- R98's table: the carries of a tick. -/
theorem test_tick_carries :
    ClockValue.addMillis ⟨2028, 2, 28, 23, 59, 59, 999⟩ 1 = ⟨2028, 2, 29, 0, 0, 0, 0⟩ ∧
      ClockValue.addMillis ⟨2031, 12, 31, 23, 59, 59, 999⟩ 1 = ⟨2032, 1, 1, 0, 0, 0, 0⟩ := by decide

/-- R103's table: a borrow into a leap day, and a sum before the range. -/
theorem test_adjust_clock :
    (after (.adjustClock (frame [0xFF, 0xFF])) { State.reset with clock := ⟨2032, 3, 1, 0, 0, 0, 0⟩ }).clock
        = ⟨2032, 2, 29, 23, 59, 59, 999⟩ ∧
      result (.adjustClock (frame [0xFE, 0x6F])) { State.reset with clock := ⟨2000, 1, 1, 0, 0, 0, 400⟩ }
        = (.badArg, []) := by decide

theorem test_read_clock :
    result (.readClock (frame [])) State.reset = (.ok, [0x07, 0xD0, 1, 1, 0, 0, 0, 0, 0, 5, 0]) := by decide

theorem test_tick_ends_the_clock :
    let t := after .tick { State.reset with clock := .last, clockState := .running }
    t.clock = .last ∧ t.clockState = .stopped ∧ t.notices = [.clockEnd] := by decide

/-- Section 6.5: the expansion of a slot with fields, with and without a frame time. -/
theorem test_expansion :
    (RenderInput.expand ⟨⟨48, 0, 1, 100⟩, some ⟨2031, 5, 14, 0, 15, 30, 7⟩, 12, 3⟩ [0x41, 130, 133, 134, 139, 140, 200])
        = [.glyph 65, .glyph 48, .glyph 53, .glyph 49, .glyph 50, .glyph 0, .glyph 48, .glyph 48, .glyph 49,
            .glyph 50, .glyph 51, .blank] ∧
      RenderInput.expand ⟨⟨48, 0, 1, 100⟩, none, 12, 3⟩ [137, 140] = [.blank, .blank, .blank, .glyph 51] := by decide

/-! ### Stamping -/

/-- R128's table: the averages of each format. -/
theorem test_half_blends :
    averageByte 0x60 0xF0 = 0xA8 ∧ averageByte 0x64 0x10 = 0x3A ∧ average565 0x4210 0xF800 = 0x9908 ∧
      (List.range 4).map (fun i => blendByte (i == 3) i (colourByte 0x7F204060 i) ⟨0x00FF8000, .halfBlend⟩)
        = [0x30, 0x60, 0x8F, 0x7F] := by decide

/-- R7's example: the byte 3BECH of buffer 1 of surface 2. -/
theorem test_location :
    surface2.bufferAt 0x801C5BEC = some 1 ∧ (0x801C5BEC - surface2.bufferStart 1) / 2560 = 5 ∧
      (0x801C5BEC - surface2.bufferStart 1) % 2560 / 2 = 1270 := by decide

theorem test_first_write_starts_frame_one :
    let t := after (.upstreamWrite (write 0x1000 2)) live1
    (t.surf 1).frame = ⟨some 0, 0, 1, some .first⟩ ∧ t.notices = [.frame 1 1 0] ∧
      t.queue.map QueueEntry.lanes = [bytes 2 0xA8] ∧ t.queue.map QueueEntry.owner = [some ⟨1, 1⟩] := by decide

theorem test_frame_start_applies_the_commit :
    let t := after (.upstreamWrite (write 0x1000 2)) pending1
    (t.surf 1).active = [aRedact] ∧ t.notices = [.committed 1 1, .frame 1 1 0] ∧
      t.queue.map QueueEntry.lanes = [bytes 2 0x10] := by decide

/-! ### Traffic -/

theorem test_malformed_write :
    let t := after (.upstreamWrite (write 0xFFE 4)) live1
    t.notices = [.malformed 0xFFE 4 3] ∧ t.answers = [⟨3, .fault⟩] ∧ t.queue = [] := by decide

theorem test_read_held_and_released :
    let t := after (.upstreamRead ⟨0x202, 9, 1⟩) { busy with held := [], places := [] }
    t.held = [⟨⟨0x202, 9, 1⟩, some 1, 2⟩] ∧
      (after (.writeCompletion .ok) (after (.writeCompletion .ok) t)).presented = [.read 0x202 1 9] := by decide

theorem test_read_forwarded : (after (.upstreamRead ⟨0x300, 9, 4⟩) busy).presented = [.read 0x300 4 9] := by decide

theorem test_write_issue :
    (after .writeIssue { busy with queue := [⟨1, 0x300, bytes 1 5, 0, none, .queued⟩] }).presented
      = [.write 0x300 (bytes 1 5) 0] := by decide

theorem test_completion_fault_and_drain :
    (after (.writeCompletion .fault) (after (.writeCompletion .ok) busy)).notices
      = [.writeFault none 0x200 4 3, .drained 9] := by decide

theorem test_held_read_release :
    (after .heldReadRelease { busy with queue := [], drain := none }).presented = [.read 0x200 8 4] := by decide

theorem test_read_response :
    (after (.readResponse 6 (.ok [1])) busy).answers = [⟨6, .ok [1]⟩, ⟨6, .posted⟩] := by decide

theorem test_response_lets_a_request_in :
    let t := after (.readResponse 6 .fault) crowded
    t.upstream = [] ∧ t.presented = [.read 0x900 4 7] ∧ t.places.getLast? = some ⟨7, .forwarded⟩ := by decide

theorem test_upstream_answer :
    (after (.upstreamAnswer 2) { busy with places := [⟨2, .ready .fault⟩] }).answers = [⟨2, .fault⟩] := by decide

theorem test_drain_met : (after .drainMet { busy with queue := [] }).notices = [.drained 9] := by decide
theorem test_drain_empty : (after (.drain (frame [])) State.reset).notices = [.drained 7] := by decide
theorem test_drain_busy : result (.drain (frame [])) busy = (.busy, []) := by decide

theorem test_set_bypass_locked : result (.setBypass (frame [1])) live1 = (.locked, []) := by decide
theorem test_read_status : result (.readStatus (frame [])) busy = (.ok, [96, 0, 0, 0, 2, 1, 1]) := by decide

theorem test_next_notice :
    result (.nextNotice (frame [])) { State.reset with notices := [.frame 2 41 1, .clockEnd] }
      = (.ok, [1, 0x01, 1, 2, 1, 0, 0, 0, 41, 1]) := by decide

theorem test_post_to_full :
    postTo (List.replicate 31 .clockEnd) .clockEnd = List.replicate 31 .clockEnd ++ [.lost 1] ∧
      postTo [.lost 65535] .clockEnd = [.lost 65535] := by decide

/-! ### For every statement with hypotheses: states and operands that meet them -/

theorem test_met_StepRunsFrontCommand :
    { State.reset with pending := [.tick, .drainMet] }.pending = [.tick, .drainMet] ∧ State.reset.pending = [] := by
  decide

theorem test_met_TransactionsDecodeAndReencode :
    (Instr.addItem (frame (0x01 :: itemBytes aText))).wf = true ∧
      (encodeTransaction (.addItem (frame (0x01 :: itemBytes aText)))).isSome = true ∧
      (List.replicate 7 true).length < 8 ∧
      ∀ e ∈ [LinkEdge.sckRise true, .sckFall] ++ [.sckFall], e = .sckFall ∨ ∃ b, e = .sckRise b := by decide

theorem test_met_BadFrameRecorded :
    State.reset.Released ∧ isBadFrame [0x10] = true ∧ isBadFrame [0x10, 7] = true ∧
      isBadFrame [0x10, 7, 65] = true ∧ isBadFrame [0x62, 1, 0] = true ∧ isBadFrame [0x62, 1, 0, 7] = true := by decide

theorem test_met_RecordFollowsTheFrame :
    State.reset.Released ∧ (frame []).payload = [] ∧
      (catalogue 0x43 = some .writeString ∧ payloadFits 0x43 (frame [5]) = false ∧
        payloadFits 0x43 (frame [5, 2, 1]) = false) ∧
      (Instr.badCommand 0x02 (frame [])).wf = true :=
  ⟨rfl, rfl, ⟨rfl, by decide, by decide⟩, by decide⟩

theorem test_met_SurfaceNumberAboveSevenRefused :
    State.reset.Released ∧ (0x31 : Byte) ∈ surfaceRows ∧ catalogue 0x31 = some .cancelCommit ∧
      payloadFits 0x31 (frame [8]) = true ∧ 7 < ((frame [8]).payload.getD 0 0).toNat :=
  ⟨rfl, by decide, rfl, by decide, by decide⟩

theorem test_met_RefusalsChangeNothing :
    State.reset.Released ∧ catalogue 0x11 = some .activateSurface ∧
      ∃ t, exec (.activateSurface (frame [1])) State.reset = .next t ∧ t.record.code ≠ .ok :=
  ⟨rfl, rfl, _, rfl, by decide⟩

theorem test_met_SoftResetEffects :
    live1.Released ∧ (frame [0]).payload ≠ [] ∧ (frame []).payload = [] := by decide

theorem test_met_ResetHoldsTheCore :
    inReset.resetAsserted = true ∧ inReset.ResetStands ∧ ∃ t, step inReset = .next t :=
  ⟨rfl, fun _ => rfl, _, rfl⟩

theorem test_met_ReleaseTakesWaitingRequests :
    (inReset.resetAsserted = true ∧ inReset.ResetStands ∧ inReset.upstream = []) ∧
      { inReset with upstream := [.write (write 0xFFF 1)] }.ResetStands ∧
      malformedWrite (write 0xFFF 1) = false ∧ anyEnabled (write 0xFFF 1).lanes = true ∧
      (inReset.afterTaking [.write (write 0xFFF 1)]).canTake (.read ⟨0xFFF, 3, 1⟩) = true :=
  ⟨⟨rfl, fun _ => rfl, rfl⟩, fun _ => rfl, by decide, by decide, by decide⟩

theorem test_met_DefineSurfaceByState :
    (frame (0x01 :: surfaceDefBytes oneBuffer)).payload = byteOf 1 :: surfaceDefBytes oneBuffer ∧
      (surfaceDefBytes oneBuffer).length = 23 ∧ surfaceDefOf (surfaceDefBytes oneBuffer) = some oneBuffer ∧
      surfaceDefOf (List.replicate 23 0xFF) = none ∧
      (live1.Released ∧ (live1.surf 1).state = .live) ∧ (retiring1.surf 1).state = .retiring ∧
      (State.reset.surf 1).state = .vacant ∧ (defined1.surf 1).state = .defined := by decide

theorem test_met_SurfaceDefinitionChecks :
    (surface2.base < 2 ^ 40 ∧ surface2.pitch < 2 ^ 32 ∧ surface2.width < 2 ^ 16 ∧ surface2.height < 2 ^ 16 ∧
        surface2.bufferCount < 2 ^ 8 ∧ surface2.stride < 2 ^ 32 ∧ surface2.rewindTolerance < 2 ^ 8 ∧
        surface2.deadline < 2 ^ 16) ∧
      (surfaceDefOf (surfaceDefBytes surface2)).isSome = true ∧
      3 < ((List.replicate 13 0 ++ 4 :: List.replicate 9 (0 : Byte)).getD 13 0).toNat ∧
      1 < ((List.replicate 22 0 ++ [(2 : Byte)]).getD 22 0).toNat := by decide

/-- Surface 0 DEFINED over the LIVE surface 1. -/
def overlapping : State := live1.setSurf 0 (.newlyDefined oneBuffer)

theorem test_met_ActivateSurfaceChecksAndSets :
    (State.reset.Released ∧ (State.reset.surf 1).state ≠ .defined) ∧
      ((overlapping.surf 0).state = .defined ∧ (overlapping.surf 0).defn = some oneBuffer ∧
        overlapping.OverlapsWith oneBuffer 1 ∧
        ∀ l : SurfaceId, l < 1 → l ≠ 0 → ¬overlapping.OverlapsWith oneBuffer l) ∧
      (defined1.surf 1).state = .defined ∧ ∀ m : SurfaceId, m ≠ 1 → ¬defined1.OverlapsWith oneBuffer m := by
  refine ⟨by decide, ⟨by decide, by decide, ⟨by decide, oneBuffer, by decide, 0, 0, by decide⟩, ?_⟩, by decide, ?_⟩
  · intro l h1 h2
    exact absurd (Fin.ext (by simpa using h1)) h2
  · intro m _ h
    have : ∀ m : SurfaceId, ¬((defined1.surf m).state = .live ∨ (defined1.surf m).state = .retiring) := by decide
    exact this m h.1

theorem test_met_RetireAndReleaseSurface :
    (frame [1]).payload = [byteOf 1] ∧ (live1.Released ∧ (live1.surf 1).state = .live ∧
      (live1.surf 1).defn = some oneBuffer ∧ (pending1.surf 1).commitPending = true) ∧
      (defined1.surf 1).state = .defined ∧ (State.reset.surf 1).state ≠ .live ∧ (live1.surf 1).state ≠ .defined := by
  decide

theorem test_met_ReadSurfaceReportsRecord :
    (State.reset.surf 1).state = .vacant ∧ (live1.surf 1).state ≠ .vacant ∧ (live1.surf 1).defn = some oneBuffer := by
  decide

theorem test_met_StagingRefusedByState :
    (State.reset.Released ∧ (0x25 : Byte) ∈ stagingRows ∧ catalogue 0x25 = some .cloneActive ∧
        payloadFits 0x25 (frame [1]) = true) ∧
      (retiring1.surf 1).state = .retiring ∧ (State.reset.surf 1).state = .vacant ∧
      ((pending1.surf 1).state = .live ∧ (pending1.surf 1).commitPending = true) ∧ (defined1.surf 1).state = .defined :=
  ⟨⟨rfl, by decide, rfl, by decide⟩, by decide, by decide, by decide, by decide⟩

theorem test_met_AddItemAppends :
    ((defined1.surf 1).StagingOpen ∧ (live1.surf 1).StagingOpen ∧ (itemBytes aRedact).length = 27 ∧
        itemOf (List.replicate 27 0xFF) = none ∧ itemOf (itemBytes aRedact) = some aRedact) ∧
      (aRedact.isRedact = true ∧ { defined1 with bypass := true }.bypass = true) ∧
      16 ≤ ((defined1.setStaged 1 (List.replicate 16 aBox)).surf 1).staged.length ∧
      (((defined1.setStaged 1 (List.replicate 15 aBox)).surf 1).staged.length < 16 ∧
        { defined1 with freeCount := 0 }.freeCount = 0 ∧ 0 < { defined1 with freeCount := 1 }.freeCount) := by decide

theorem test_met_SetItemReplaces :
    (live1.surf 1).StagingOpen ∧ (live1.surf 1).staged[(0x00 : Byte).toNat]? = some aRedact ∧
      (live1.surf 1).staged.length ≤ (0x01 : Byte).toNat ∧ itemOf (itemBytes aText) = some aText ∧
      aText.isRedact = false := by decide

theorem test_met_RemoveAndClearFree :
    (live1.Released ∧ (live1.surf 1).StagingOpen) ∧ (live1.surf 1).staged = [] ++ aRedact :: [] ∧
      (live1.surf 1).staged.length ≤ (0x01 : Byte).toNat ∧ (frame [1, 0]).payload = [byteOf 1, 0] := by decide

theorem test_met_MoveItemAndSelectPage :
    let s := live1.setStaged 1 [aBox, aText, aRedact]
    (s.Released ∧ (s.surf 1).StagingOpen) ∧ (0x02 : Byte).toNat < (s.surf 1).staged.length ∧
      (s.surf 1).staged.length ≤ (0x03 : Byte).toNat ∧ 1 < (0x02 : Byte).toNat := by decide

theorem test_met_CloneActiveCopies :
    let s := live1.setStaged 1 []
    ((s.surf 1).state = .live ∧ (s.surf 1).commitPending = false) ∧ (defined1.surf 1).state ≠ .live ∧
      ((pending1.surf 1).state = .live ∧ (pending1.surf 1).commitPending = true) ∧
      { s with freeCount := 0 }.freeCount < (s.surf 1).active.length - (s.surf 1).staged.length ∧
      (s.surf 1).active.length - (s.surf 1).staged.length ≤ { s with freeCount := 1 }.freeCount := by decide

theorem test_met_ItemsReadBack :
    ((live1.surf 1).state ≠ .vacant ∧ (State.reset.surf 1).state = .vacant ∧ 1 < (0x02 : Byte).toNat ∧
        (live1.surf 1).active[(0x00 : Byte).toNat]? = some aBox ∧
        (live1.surf 1).active.length ≤ (0x01 : Byte).toNat) ∧
      (aText.legal = true ∧ aBox.legal = true ∧ aRedact.legal = true) ∧
      (Item.redact ⟨4096, 0, 1, 1, 0⟩).legal = false ∧ (Item.box ⟨4095, 0, 0, 1, 0⟩ .halfBlend).legal = false ∧
      (Item.text ⟨0, 0, 5, 1, 1, 8, 0, 0, 0, .halfBlend⟩).legal = false ∧
      ([0xFF, 0xFF, 0xFF, 0xFF] : List Byte).length = 4 := by decide

theorem test_met_CommitAndCancel :
    (live1.Released ∧ (live1.surf 1).state = .live ∧ (live1.surf 1).commitPending = false ∧
        (live1.surf 1).defn = some oneBuffer) ∧
      ((pending1.surf 1).state = .live ∧ (pending1.surf 1).commitPending = true) ∧
      (retiring1.surf 1).state ≠ .live := by decide

theorem test_met_ExpiriesForce :
    let c := pending1.setSurf 1 { pending1.surf 1 with deadlineRemaining := some 0 }
    let r := retiring1.setSurf 1 { retiring1.surf 1 with deadlineRemaining := some 0 }
    (c.Released ∧ (c.surf 1).state = .live ∧ (c.surf 1).commitPending = true ∧
        (c.surf 1).deadlineRemaining = some 0) ∧
      ((r.surf 1).state = .retiring ∧ (r.surf 1).deadlineRemaining = some 0) ∧
      (pending1.surf 1).deadlineRemaining ≠ some 0 := by decide

theorem test_met_PageWritesReplaceWhole :
    (live1.Released ∧ live1.PageHeld .a ∧ ¬live1.PageHeld .b ∧ pending1.PageHeld .b) ∧
      (1 < (0x02 : Byte).toNat ∧ 127 < (0x80 : Byte).toNat ∧ (0x7F : Byte).toNat = (127 : Fin 128).val) ∧
      (118 < (119 : Byte).toNat ∧ (118 : Byte).toNat ≤ 118 ∧ (121 : Byte).toNat ≤ 121) := by decide

theorem test_met_GlyphCellsReadBack :
    (live1.Released ∧ live1.PageHeld .a ∧ ¬live1.PageHeld .b) ∧
      (127 < (0x80 : Byte).toNat ∧ (0x80 : Byte) ≠ 0xFF) ∧ (0x7F : Byte).toNat = (127 : Fin 128).val ∧
      (List.replicate 60 (0xFF : Byte)).length = 60 := by decide

theorem test_met_StringSlotsWriteAndRead :
    (defined1.slot 5).refCount ≠ 0 ∧ (defined1.slot 63).refCount = 0 ∧ (0x3F : Byte).toNat = (63 : SlotId).val ∧
      63 < (0x40 : Byte).toNat ∧ 32 < (0x21 : Byte).toNat ∧
      (List.replicate 32 (0xFF : Byte)).length = (0x20 : Byte).toNat := by decide

theorem test_met_SetAndHoldClock :
    State.reset.Released ∧ (2099 < 65536 ∧ 12 < 256 ∧ 31 ≤ monthLength 2099 12) ∧
      (frame (clockBytes .last)).payload = clockBytes .last ∧ ¬29 ≤ monthLength 2099 2 := by decide

theorem test_met_AdjustClockAdds :
    (State.reset.Released ∧ State.reset.clock.valid = true) ∧
      (((0x03 : Byte) ++ (0xE7 : Byte) : BitVec 16).toInt = 999 ∧ ((0xFC : Byte) ++ (0x19 : Byte) : BitVec 16).toInt = -999 ∧
        ((0x03 : Byte) ++ (0xE8 : Byte) : BitVec 16).toInt = 1000 ∧ (State.reset.clock.millis : Int) + -1 < 0) := by decide

theorem test_met_ClockAndStatusRead : busy.Released ∧ (frame []).payload = [] := by decide

theorem test_met_CalendarCounts : ClockValue.first.valid = true ∧ ClockValue.last.valid = true := by decide

theorem test_met_TickAdvances :
    (State.reset.Released ∧ State.reset.clock.valid = true ∧ State.reset.clockState = .stopped) ∧
      (let s := { pending1 with clock := .last, clockState := .running }
       s.clock.valid = true ∧ s.clockState = .running ∧ s.clock = .last) ∧
      (let s := { pending1 with clockState := .running }
       s.clock.valid = true ∧ s.clock ≠ .last) := by decide

theorem test_met_SetBypassGuarded :
    live1.Released ∧ live1.RedactHeld ∧ ¬State.reset.RedactHeld ∧ 1 < (0x02 : Byte).toNat := by
  refine ⟨rfl, ⟨1, by decide, ⟨0, 0, 4, 4, 0x10⟩, .inl (by decide)⟩, ?_, by decide⟩
  rintro ⟨n, h, -⟩
  have : ∀ n : SurfaceId, (State.reset.surf n).state = .vacant := by decide
  exact h (this n)

theorem test_met_DrainMarksAndIsMet :
    (busy.Released ∧ busy.drain ≠ none ∧ busy.drain = some ⟨1, 9⟩) ∧
      (State.reset.drain = none ∧ State.reset.queue = []) ∧
      ({ busy with drain := none }.queue.length = 2) ∧
      (∃ e ∈ busy.queue, seqAtOrBelow e.seq 1 = true) ∧
      ∀ e ∈ { busy with queue := [⟨2, 0, [], 0, none, .queued⟩] }.queue, seqAtOrBelow e.seq 1 = false := by decide

theorem test_met_NextNoticeRemovesOldest :
    State.reset.notices = [] ∧ { State.reset with notices := [.clockEnd] }.notices = .clockEnd :: [] := by decide

theorem test_met_PostsFollowTheQueue :
    ((∀ m ∈ List.replicate 30 Notice.clockEnd, m.isLost = false) ∧ (List.replicate 30 Notice.clockEnd).length ≤ 30) ∧
      ((∀ m ∈ List.replicate 31 Notice.clockEnd, m.isLost = false) ∧
        (List.replicate 31 Notice.clockEnd).length = 31) ∧
      ∀ m ∈ ([] : List Notice), m.isLost = false := by decide

/-- The whole of a write on buffer 0 of surface 1, as a portion. -/
def portion1 (a n : Nat) : Portion := ⟨a, some ⟨1, 0⟩, bytes n 0x60⟩

theorem test_met_FrameStartEffects :
    (live1.Tracks (portion1 0x1000 2) 1 0 oneBuffer ∧
        (live1.surf 1).frame.Starts oneBuffer 0 ((portion1 0x1000 2).lowRow oneBuffer 0)) ∧
      (pending1.Tracks (portion1 0x1000 2) 1 0 oneBuffer ∧ (pending1.surf 1).commitPending = true) ∧
      (retiring1.Tracks (portion1 0x1000 2) 1 0 oneBuffer ∧ (retiring1.surf 1).state = .retiring) ∧
      inFrame1.Tracks (portion1 (0x1000 + 2 * 64) 2) 1 0 oneBuffer ∧
      (inFrame1.surf 1).frame.Starts oneBuffer 0 ((portion1 (0x1000 + 2 * 64) 2).lowRow oneBuffer 0) ∧
      (inFrame1.surf 1).frame.Starts oneBuffer 1 9 := by
  simp only [State.Tracks, FrameRecord.Starts]
  decide

theorem test_met_FrameContinues :
    inFrame1.Tracks (portion1 (0x1000 + 3 * 64) 65) 1 0 oneBuffer ∧
      ¬(inFrame1.surf 1).frame.Starts oneBuffer 0 ((portion1 (0x1000 + 3 * 64) 65).lowRow oneBuffer 0) := by
  simp only [State.Tracks, FrameRecord.Starts]
  decide

theorem test_met_StampingKeepsOtherBytes :
    (write 0x1000 40).lanes[39]? = some ⟨0x60, true⟩ ∧ live1.locate (0x1000 + 16) = some ⟨1, 0⟩ ∧
      (live1.surf 1).defn = some oneBuffer ∧
      oneBuffer.width * oneBuffer.format.bpp ≤ (0x1000 + 16 - (oneBuffer.base + 0 * oneBuffer.stride)) % oneBuffer.pitch ∧
      live1.locate 0xFFF = none ∧ live1.locate 0x1400 = none := by decide

theorem test_met_PortionsCutTheWrite :
    (live1.portions 0xFFF (bytes 2 1) = [⟨0xFFF, none, bytes 1 1⟩] ++ ⟨0x1000, some ⟨1, 0⟩, bytes 1 1⟩ :: []) ∧
      (live1.TableWf ∧ live1.RangesDisjoint) ∧ live1.WriteOn (write 0x13FF 1) 1 oneBuffer 0 ∧
      (write 0x13FF 1).lanes ≠ [] := by decide

theorem test_met_RedactionHolds :
    let w : WriteRequest := write 0x1000 2
    let p : Portion := ⟨0x1000, some ⟨1, 0⟩, bytes 2 0x60⟩
    let out := pending1.handlePortion p
    (pending1.TableWf ∧ pending1.BypassSafe ∧ pending1.portions w.addr.toNat w.lanes = [] ++ p :: []) ∧
      pending1.trackedOn p = some (⟨1, 0⟩, oneBuffer) ∧
      (out.1.surf 1).active = [] ++ .redact ⟨0, 0, 4, 4, 0x10⟩ :: [] ∧ (out.1.surf 1).state = .live ∧
      RectItem.coversByte ⟨0, 0, 4, 4, 0x10⟩ oneBuffer 1 0 = true := by decide

theorem test_met_ItemsAreLaid :
    (oneBuffer.format = .y8 ∧ 65 % oneBuffer.pitch < oneBuffer.width * oneBuffer.format.bpp) ∧
      (RectItem.coversByte ⟨0, 0, 8, 8, 0xF0⟩ oneBuffer (65 % 64) (65 / 64) = true ∧
        RectItem.coversByte ⟨0, 0, 1, 8, 0xF0⟩ oneBuffer (65 % 64) (65 / 64) = false) ∧
      (65 % oneBuffer.pitch = 0 + 0 * (12 * 1 + 0) + 1 ∧ 65 / oneBuffer.pitch = 0 + 1 ∧
        [RenderedCell.glyph 65][0]? = some (.glyph (65 : Fin 128).val) ∧
        (GlyphPage.blank.cells[65])[12 * (1 / 1) + 1 / 1]? = some .clear) := by decide

/-- One INK shade, at row 1 and column 1, in cell 65 and one SHADE in cell 66. -/
def inkPage : GlyphPage :=
  let mark (sh : Shade) : GlyphCell := Vector.ofFn fun i => if i.val = 13 then sh else .clear
  { GlyphPage.blank with cells := (GlyphPage.blank.cells.set 65 (mark .ink)).set 66 (mark .shade) }

/-- A TEXT item of two cells with a gap of one column between them. -/
def twoCells (a b : RenderedCell) : DrawnItem :=
  ⟨.text ⟨0, 0, 5, 1, 1, 1, 0x0000F800, 0x22, 0x33, .halfBlend⟩, [a, b]⟩

/-- The clauses on contributions: covered, in the gap, on a BLANK cell, beyond the cells. -/
theorem test_met_ItemsAreLaid_contribution :
    (12 * 1 ≤ (12 - 0) % (12 * 1 + 1) ∧ 2 ≤ (26 - 0) / (12 * 1 + 1)) ∧
      (twoCells (.glyph 65) .blank).contribution inkPage 1 1 = some ⟨0x0000F800, .halfBlend⟩ ∧
      (twoCells (.glyph 66) .blank).contribution inkPage 1 1 = some ⟨0x33, .halfBlend⟩ ∧
      (twoCells (.glyph 65) .blank).contribution inkPage 12 1 = none ∧
      (twoCells (.glyph 65) .blank).contribution inkPage 14 1 = none ∧
      (twoCells (.glyph 65) .blank).contribution inkPage 26 1 = none := by decide

/-- An RGB565 buffer, and the manual's HALF example on it: 4210H with 0000F800H gives 9908H (R128). -/
def surface565 : SurfaceDef := { oneBuffer with format := .rgb565 }

theorem test_met_ItemsAreLaid_rgb565 :
    let box : DrawnItem := ⟨.box ⟨0, 0, 8, 8, 0x0000F800⟩ .halfBlend, []⟩
    let whole : List Lane := [⟨0x10, true⟩, ⟨0x42, true⟩]
    let low : List Lane := [⟨0x10, true⟩, ⟨0x42, false⟩]
    (surface565.width * 2 ≤ surface565.pitch ∧ 64 % surface565.pitch < surface565.width * 2 ∧
        64 % surface565.pitch % 2 = 0 ∧ (laneAt whole 1).enabled = true ∧ (laneAt low 1).enabled = false) ∧
      (box.redaction 0 1 = none ∧ box.contribution .blank 0 1 = some ⟨0x0000F800, .halfBlend⟩) ∧
      stampedByte surface565 .blank [box] whole 64 0 = 0x08 ∧ stampedByte surface565 .blank [box] whole 65 1 = 0x99 ∧
      stampedByte surface565 .blank [box] low 64 0 = 0x00 ∧
      stampedByte surface565 .blank [box] [⟨0x42, true⟩] 65 0 = 0xF8 := by decide

theorem test_met_ItemsAreLaid_stamped :
    (live1.surf 1).activePage = some .a ∧ (bytes 2 1)[1]? = some ⟨1, true⟩ ∧
      (⟨some 0, 5, 1, some .first⟩ : FrameRecord).time = some .first ∧ State.reset.clock = .first := by decide

theorem test_met_ChromaFollowsLeftPixel :
    let it : DrawnItem := ⟨.box ⟨0, 0, 1, 1, 0x00847C10⟩ .opaqueBlend, []⟩
    (surface2.format = .yuyv ∧ 1 % surface2.pitch < surface2.width * 2 ∧ 1 % surface2.pitch % 2 = 1) ∧
      (it.redaction 0 0 = none ∧ it.redaction 1 0 = none) ∧
      it.contribution .blank 0 0 = some ⟨0x00847C10, .opaqueBlend⟩ ∧ it.contribution .blank 2 0 = none := by decide

theorem test_met_UpstreamWritePosted :
    let s := { busy with queue := List.replicate 15 ⟨1, 0x200, bytes 4 2, 3, none, .issued⟩ }
    (s.Released ∧ s.Settled ∧ s.upstream = [] ∧ s.queue.length < 16 ∧ s.needsPlace 3 = false) ∧
      (busy.Settled ∧ busy.needsPlace 6 = true ∧ busy.places.length < 32) ∧
      malformedWrite (write 0xFFF 1) = false ∧ anyEnabled (write 0xFFF 1).lanes = true := by decide

theorem test_met_MalformedAndEmptyRequests :
    (busy.Released ∧ busy.Settled ∧ busy.upstream = [] ∧ busy.places.length < 32) ∧
      (write 0xFFF 2).addr.toNat / 4096 ≠ ((write 0xFFF 2).addr.toNat + (write 0xFFF 2).lanes.length - 1) / 4096 ∧
      (write 0xFFF 1).addr.toNat / 4096 = ((write 0xFFF 1).addr.toNat + (write 0xFFF 1).lanes.length - 1) / 4096 ∧
      ∀ l ∈ ([⟨1, false⟩] : List Lane), l.enabled = false := by decide

theorem test_met_UpstreamReadForwardedOrHeld :
    (busy.Released ∧ busy.Settled ∧ busy.upstream = [] ∧ busy.places.length < 32 ∧ busy.held.length < 4) ∧
      malformedRead ⟨0x104, 9, 1⟩ = false ∧
      (∀ e ∈ busy.queue, e.overlapsRead ⟨0x104, 9, 1⟩ = false) ∧ (∀ h ∈ busy.held, h.req.tag ≠ 9) ∧
      (∃ h ∈ busy.held, h.req.tag = 4) ∧ ∃ e ∈ busy.queue, e.overlapsRead ⟨0x103, 9, 1⟩ = true := by decide

theorem test_met_RequestsWait :
    let full := { busy with queue := List.replicate 16 ⟨1, 0x200, bytes 4 2, 3, none, .issued⟩ }
    (full.Released ∧ full.Settled ∧ malformedWrite (write 0 1) = false ∧ anyEnabled (write 0 1).lanes = true ∧
        16 ≤ full.queue.length) ∧
      (let s := { busy with places := List.replicate 32 ⟨6, .forwarded⟩ }
       s.Settled ∧ s.needsPlace 6 = true ∧ 32 ≤ s.places.length ∧ malformedRead ⟨0xFFF, 6, 2⟩ = true) ∧
      (let s := { busy with held := List.replicate 4 ⟨⟨0x200, 4, 8⟩, some 1, 2⟩ }
       s.Settled ∧ 4 ≤ s.held.length ∧ ∃ h ∈ s.held, h.req.tag = 4) ∧
      ({ full with upstream := [.write (write 0 1)] }.Settled) := by decide

theorem test_met_IssueAndRelease :
    ((busy.Released ∧ ∀ e ∈ busy.queue, e.state = .issued) ∧ inFrame1.Released ∧ inFrame1.held = []) ∧
    (let s := { busy with queue := [⟨1, 0x100, bytes 4 1, 3, none, .issued⟩, ⟨2, 0x300, bytes 4 1, 3, none, .queued⟩] }
     s.Released ∧ s.issuedCount < 4 ∧ s.heldBack ⟨2, 0x300, bytes 4 1, 3, none, .queued⟩ = false ∧
        s.heldBack ⟨2, 0x200, bytes 4 1, 3, none, .queued⟩ = true) ∧
      (busy.held = [⟨⟨0x200, 4, 8⟩, some 1, 2⟩] ∧ busy.places.head? = some ⟨4, .held⟩) ∧
      (∃ e ∈ busy.queue, seqAtOrBelow e.seq 1 = true ∧ e.overlapsRead ⟨0x200, 4, 8⟩ = true) ∧
      ∀ e ∈ busy.queue.take 1, seqAtOrBelow e.seq 1 = false ∨ e.overlapsRead ⟨0x200, 4, 8⟩ = false := by decide

theorem test_met_CompletionRetiresHead :
    (busy.Released ∧ busy.upstream = [] ∧ busy.queue.head?.map QueueEntry.state = some .issued ∧
        ∃ x ∈ busy.queue.drop 1, seqAtOrBelow x.seq 1 = true) ∧
      (crowded.Released ∧ crowded.Settled ∧ crowded.queue.head?.map QueueEntry.state = some .issued) ∧
      (let s := { busy with queue := busy.queue.drop 1 }
       s.drain = some ⟨1, 9⟩ ∧ ∀ x ∈ s.queue.drop 1, seqAtOrBelow x.seq 1 = false) ∧
      (State.reset.Settled ∧ ∀ e ∈ State.reset.queue, e.state = .queued) := by decide

theorem test_met_ReadAnswersReturned :
    (busy.Released ∧ busy.Settled ∧ busy.upstream = [] ∧
        busy.places = [⟨4, .held⟩, ⟨4, .ready .posted⟩] ++ ⟨6, .forwarded⟩ :: [⟨6, .ready .posted⟩, ⟨6, .forwarded⟩] ∧
        ∀ p ∈ busy.places.take 2, p.tag ≠ 6) ∧
      (crowded.Released ∧ crowded.Settled ∧ crowded.upstream ≠ [] ∧ crowded.places.take 3 = busy.places.take 3) ∧
      (⟨4, .forwarded⟩ : Place) ∉ busy.places ∧
      ([⟨2, .ready .fault⟩] : List Place) = [] ++ ⟨2, .ready .fault⟩ :: [] := by decide

theorem test_met_SurfaceTableKept :
    let s := { live1 with pending := [.tick] }
    s.TableWf ∧ s.RangesDisjoint ∧ (pending1.TableWf ∧ retiring1.TableWf ∧ inFrame1.TableWf ∧ defined1.TableWf) ∧
      ∃ t, step { live1 with pending := [.tick] } = .next t :=
  ⟨by decide, by decide, by decide, _, rfl⟩

theorem test_met_PoolAndCountsKept : live1.TableWf ∧ live1.PoolBalanced ∧ live1.CountsAgree := by decide
theorem test_met_BypassKeptSafe : { defined1 with bypass := true }.BypassSafe ∧ live1.BypassSafe := by decide

theorem test_met_QueuesKept :
    (noticesWf (List.replicate 31 .clockEnd ++ [.lost 65535]) = true ∧
        noticesWf (List.replicate 31 .clockEnd) = true) ∧
      ({ busy with queue := [⟨0, 0x100, bytes 4 1, 3, none, .issued⟩, ⟨1, 0x200, bytes 4 2, 3, none, .queued⟩] }.QueueWf ∧
        busy.QueueWf ∧ busy.ListsWf) := by decide

theorem test_met_StoresProtected :
    (∃ t, step { live1 with pending := [.tick] } = .next t) ∧
      (∀ received rest, { live1 with pending := [.tick] }.pending ≠ .hardReset received :: rest) ∧
      live1.PageHeld .a ∧ (defined1.slot 5).refCount ≠ 0 ∧ State.reset.StoresWf :=
  ⟨⟨_, rfl⟩, by simp, by decide, by decide, ⟨fun p => by cases p <;> decide, by decide⟩⟩

theorem test_met_SettledKept : busy.Settled ∧ busy.ResetStands ∧ inReset.Settled ∧ inReset.ResetStands :=
  ⟨by decide, nofun, .inl rfl, fun _ => rfl⟩

theorem test_met_WritesKeepTheirOrder :
    (∃ t, step { busy with pending := [.writeCompletion .ok] } = .next t) ∧
      ∀ received rest, { busy with pending := [.writeCompletion .ok] }.pending ≠ .hardReset received :: rest :=
  ⟨⟨_, rfl⟩, by simp⟩

end Sys2Proof.Tests
end

section
/-! The layer of facts on the surface table that the surface statements share: what makes a clock value and a surface
record well formed, what each change of a record keeps, and what a step may do to the table. -/

namespace Sys2Proof.Machine

/-! ### Clock values (R96 to R98, R103) -/

/-- Every field of a clock value but the year is one of a date and time. -/
structure ClockValue.FieldsOk (v : ClockValue) : Prop where
  month_pos : 1 ≤ v.month
  month_le  : v.month ≤ 12
  day_pos   : 1 ≤ v.day
  day_le    : v.day ≤ monthLength v.year v.month
  hour_le   : v.hour ≤ 23
  minute_le : v.minute ≤ 59
  second_le : v.second ≤ 59
  milli_le  : v.milli ≤ 999

theorem ClockValue.valid_iff (v : ClockValue) : v.valid = true ↔ v.inRange = true ∧ v.FieldsOk := by
  simp only [ClockValue.valid, Bool.and_eq_true, decide_eq_true_eq]
  constructor
  · rintro ⟨⟨⟨⟨⟨⟨⟨⟨hr, h1⟩, h2⟩, h3⟩, h4⟩, h5⟩, h6⟩, h7⟩, h8⟩
    exact ⟨hr, h1, h2, h3, h4, h5, h6, h7, h8⟩
  · rintro ⟨hr, h1, h2, h3, h4, h5, h6, h7, h8⟩
    exact ⟨⟨⟨⟨⟨⟨⟨⟨hr, h1⟩, h2⟩, h3⟩, h4⟩, h5⟩, h6⟩, h7⟩, h8⟩

theorem ClockValue.inRange_iff (v : ClockValue) : v.inRange = true ↔ 2000 ≤ v.year ∧ v.year ≤ 2099 := by
  simp [ClockValue.inRange]

theorem one_le_monthLength (y m : Nat) : 1 ≤ monthLength y m := by
  unfold monthLength; split <;> (try split) <;> omega

theorem monthLength_december (y : Nat) : monthLength y 12 = 31 := rfl

theorem ClockValue.FieldsOk.nextMonth {v : ClockValue} (h : v.FieldsOk) (hd : v.day = 1) : v.nextMonth.FieldsOk := by
  obtain ⟨h1, h2, h3, h4, h5, h6, h7, h8⟩ := h
  unfold ClockValue.nextMonth
  split
  · exact ⟨by simp, by simp; omega, h3, by simp [hd, one_le_monthLength], h5, h6, h7, h8⟩
  · exact ⟨by simp, by simp, h3, by simp [hd, one_le_monthLength], h5, h6, h7, h8⟩

theorem ClockValue.FieldsOk.nextDay {v : ClockValue} (h : v.FieldsOk) : v.nextDay.FieldsOk := by
  obtain ⟨h1, h2, h3, h4, h5, h6, h7, h8⟩ := h
  unfold ClockValue.nextDay
  split
  · exact ⟨h1, h2, by simp, by simpa, h5, h6, h7, h8⟩
  · exact ClockValue.FieldsOk.nextMonth ⟨h1, h2, by simp, by simp [one_le_monthLength], h5, h6, h7, h8⟩ rfl

theorem ClockValue.FieldsOk.nextHour {v : ClockValue} (h : v.FieldsOk) : v.nextHour.FieldsOk := by
  obtain ⟨h1, h2, h3, h4, h5, h6, h7, h8⟩ := h
  unfold ClockValue.nextHour
  split
  · exact ⟨h1, h2, h3, h4, by simpa, h6, h7, h8⟩
  · exact ClockValue.FieldsOk.nextDay ⟨h1, h2, h3, h4, by simp, h6, h7, h8⟩

theorem ClockValue.FieldsOk.nextMinute {v : ClockValue} (h : v.FieldsOk) : v.nextMinute.FieldsOk := by
  obtain ⟨h1, h2, h3, h4, h5, h6, h7, h8⟩ := h
  unfold ClockValue.nextMinute
  split
  · exact ⟨h1, h2, h3, h4, h5, by simpa, h7, h8⟩
  · exact ClockValue.FieldsOk.nextHour ⟨h1, h2, h3, h4, h5, by simp, h7, h8⟩

theorem ClockValue.FieldsOk.nextSecond {v : ClockValue} (h : v.FieldsOk) : v.nextSecond.FieldsOk := by
  obtain ⟨h1, h2, h3, h4, h5, h6, h7, h8⟩ := h
  unfold ClockValue.nextSecond
  split
  · exact ⟨h1, h2, h3, h4, h5, h6, by simpa, h8⟩
  · exact ClockValue.FieldsOk.nextMinute ⟨h1, h2, h3, h4, h5, h6, by simp, h8⟩

theorem ClockValue.FieldsOk.addMillis {v : ClockValue} (h : v.FieldsOk) {a : Nat} (ha : a ≤ 999) :
    (v.addMillis a).FieldsOk := by
  obtain ⟨h1, h2, h3, h4, h5, h6, h7, h8⟩ := h
  unfold ClockValue.addMillis
  split
  · exact ⟨h1, h2, h3, h4, h5, h6, h7, by simp; omega⟩
  · exact ClockValue.FieldsOk.nextSecond ⟨h1, h2, h3, h4, h5, h6, h7, by simp; omega⟩

theorem ClockValue.FieldsOk.prevDay {v : ClockValue} (h : v.FieldsOk) : v.prevDay.FieldsOk := by
  obtain ⟨h1, h2, h3, h4, h5, h6, h7, h8⟩ := h
  unfold ClockValue.prevDay ClockValue.prevMonth
  split
  · exact ⟨h1, h2, by simp; omega, by simp; omega, h5, h6, h7, h8⟩
  · split
    · exact ⟨by simp; omega, by simp; omega, by simp [one_le_monthLength], by simp, h5, h6, h7, h8⟩
    · exact ⟨by simp, by simp, by simp [one_le_monthLength], by simp, h5, h6, h7, h8⟩

theorem ClockValue.FieldsOk.prevHour {v : ClockValue} (h : v.FieldsOk) : v.prevHour.FieldsOk := by
  obtain ⟨h1, h2, h3, h4, h5, h6, h7, h8⟩ := h
  unfold ClockValue.prevHour
  split
  · exact ⟨h1, h2, h3, h4, by simp; omega, h6, h7, h8⟩
  · exact ClockValue.FieldsOk.prevDay ⟨h1, h2, h3, h4, by simp, h6, h7, h8⟩

theorem ClockValue.FieldsOk.prevMinute {v : ClockValue} (h : v.FieldsOk) : v.prevMinute.FieldsOk := by
  obtain ⟨h1, h2, h3, h4, h5, h6, h7, h8⟩ := h
  unfold ClockValue.prevMinute
  split
  · exact ⟨h1, h2, h3, h4, h5, by simp; omega, h7, h8⟩
  · exact ClockValue.FieldsOk.prevHour ⟨h1, h2, h3, h4, h5, by simp, h7, h8⟩

theorem ClockValue.FieldsOk.prevSecond {v : ClockValue} (h : v.FieldsOk) : v.prevSecond.FieldsOk := by
  obtain ⟨h1, h2, h3, h4, h5, h6, h7, h8⟩ := h
  unfold ClockValue.prevSecond
  split
  · exact ⟨h1, h2, h3, h4, h5, h6, by simp; omega, h8⟩
  · exact ClockValue.FieldsOk.prevMinute ⟨h1, h2, h3, h4, h5, h6, by simp, h8⟩

theorem ClockValue.FieldsOk.subMillis {v : ClockValue} (h : v.FieldsOk) {a : Nat} (ha : a ≤ 999) :
    (v.subMillis a).FieldsOk := by
  obtain ⟨h1, h2, h3, h4, h5, h6, h7, h8⟩ := h
  unfold ClockValue.subMillis
  split
  · exact ⟨h1, h2, h3, h4, h5, h6, h7, by simp; omega⟩
  · exact ClockValue.FieldsOk.prevSecond ⟨h1, h2, h3, h4, h5, h6, h7, by simp; omega⟩

/-- An adjustment of less than a second leaves a date and time, in or out of the range of years (R103). -/
theorem ClockValue.FieldsOk.adjusted {v : ClockValue} (h : v.FieldsOk) {a : Int} (hl : -999 ≤ a) (hu : a ≤ 999) :
    (v.adjusted a).FieldsOk := by
  unfold ClockValue.adjusted
  split
  · exact h.addMillis (by omega)
  · exact h.subMillis (by omega)

/-- A millisecond changes the year only at the last instant of it (R98). -/
theorem ClockValue.year_addMillis_one {v : ClockValue} (h : v.FieldsOk) :
    (v.addMillis 1).year = v.year ∨
      ((v.addMillis 1).year = v.year + 1 ∧ v = ⟨v.year, 12, 31, 23, 59, 59, 999⟩) := by
  obtain ⟨h1, h2, h3, h4, h5, h6, h7, h8⟩ := h
  obtain ⟨year, month, day, hour, minute, second, milli⟩ := v
  simp only [ClockValue.addMillis, ClockValue.nextSecond, ClockValue.nextMinute, ClockValue.nextHour,
    ClockValue.nextDay, ClockValue.nextMonth] at *
  split_ifs with g1 g2 g3 g4 g5 g6
  any_goals exact .inl rfl
  obtain rfl : month = 12 := by omega
  rw [monthLength_december] at *
  exact .inr ⟨rfl, by simp only [ClockValue.mk.injEq, true_and]; omega⟩

/-- A tick leaves the clock at a valid value: at the last one it stops instead (R98, R99). -/
theorem State.tickClock_valid {s : State} (h : s.clock.valid = true) : s.tickClock.clock.valid = true := by
  rcases s.tickClock_cases with ⟨-, hs⟩ | ⟨-, -, hs⟩ | ⟨-, hl, hs⟩
  · rw [hs]; exact h
  · rw [hs]; exact h
  · rw [hs]
    obtain ⟨hr, hf⟩ := (ClockValue.valid_iff _).mp h
    refine (ClockValue.valid_iff _).mpr ⟨?_, hf.addMillis (by omega)⟩
    rw [ClockValue.inRange_iff] at hr ⊢
    show 2000 ≤ (s.clock.addMillis 1).year ∧ (s.clock.addMillis 1).year ≤ 2099
    rcases ClockValue.year_addMillis_one hf with hy | ⟨hy, hv⟩
    · omega
    · have : s.clock.year ≠ 2099 := fun hc => hl (by rw [hv, hc]; rfl)
      omega

theorem clockOf_valid {bytes : List Byte} {v : ClockValue} (h : clockOf bytes = some v) : v.valid = true := by
  simp only [clockOf] at h
  split at h
  · cases h; assumption
  · cases h

theorem amountOf_range {bytes : List Byte} {a : Int} (h : amountOf bytes = some a) : -999 ≤ a ∧ a ≤ 999 := by
  simp only [amountOf] at h
  split at h
  · cases h; assumption
  · cases h

/-! ### Surface records (R1, R21, R59) -/

theorem Surface.wf_vacant_iff {r : Surface} (h : r.state = .vacant) : r.wf = true ↔ r = .vacant := by
  simp [Surface.wf, h]

/-- A surface that is not VACANT has a definition. -/
theorem Surface.exists_defn {r : Surface} (h : r.wf = true) (hv : r.state ≠ .vacant) : ∃ d, r.defn = some d := by
  unfold Surface.wf at h
  split at h
  · contradiction
  · exact ⟨_, ‹_›⟩
  · exact ⟨_, ‹_›⟩
  · exact ⟨_, ‹_›⟩
  · cases h

theorem Surface.wf_defined_iff {r : Surface} {d : SurfaceDef} (h : r.state = .defined) (hd : r.defn = some d) :
    r.wf = true ↔
      d.legal = true ∧ r.staged.length ≤ 16 ∧ r.stagedPage.isSome = true ∧ r.active = [] ∧ r.activePage = none ∧
        r.commitPending = false ∧ r.deadlineRemaining = none := by
  simp [Surface.wf, h, hd, and_assoc]

theorem Surface.wf_live_iff {r : Surface} {d : SurfaceDef} (h : r.state = .live) (hd : r.defn = some d) :
    r.wf = true ↔
      d.legal = true ∧ r.staged.length ≤ 16 ∧ r.stagedPage.isSome = true ∧ r.active.length ≤ 16 ∧
        r.activePage.isSome = true ∧
        (if r.commitPending = true then deadlineWf d r.deadlineRemaining = true else r.deadlineRemaining = none) ∧
        r.frame.wf d = true := by
  cases hc : r.commitPending <;> simp [Surface.wf, h, hd, hc, and_assoc]

theorem Surface.wf_retiring_iff {r : Surface} {d : SurfaceDef} (h : r.state = .retiring) (hd : r.defn = some d) :
    r.wf = true ↔
      d.legal = true ∧ r.staged.length ≤ 16 ∧ r.stagedPage.isSome = true ∧ r.active.length ≤ 16 ∧
        r.activePage.isSome = true ∧ r.commitPending = false ∧ deadlineWf d r.deadlineRemaining = true ∧
        r.frame.wf d = true := by
  simp [Surface.wf, h, hd, and_assoc]

/-- The parts of a well-formed record that its state does not decide. -/
theorem Surface.wf_common {r : Surface} {d : SurfaceDef} (h : r.wf = true) (hv : r.state ≠ .vacant)
    (hd : r.defn = some d) :
    d.legal = true ∧ r.staged.length ≤ 16 ∧ r.active.length ≤ 16 ∧ r.stagedPage.isSome = true := by
  cases hs : r.state with
  | vacant => contradiction
  | defined =>
    obtain ⟨h1, h2, h3, h4, -⟩ := (Surface.wf_defined_iff hs hd).mp h
    exact ⟨h1, h2, by simp [h4], h3⟩
  | live =>
    obtain ⟨h1, h2, h3, h4, -⟩ := (Surface.wf_live_iff hs hd).mp h
    exact ⟨h1, h2, h4, h3⟩
  | retiring =>
    obtain ⟨h1, h2, h3, h4, -⟩ := (Surface.wf_retiring_iff hs hd).mp h
    exact ⟨h1, h2, h4, h3⟩

theorem Surface.wf_drawing {r : Surface} {d : SurfaceDef} (h : r.wf = true) (hr : r.drawing = true)
    (hd : r.defn = some d) : r.activePage.isSome = true ∧ r.frame.wf d = true := by
  rcases (Surface.drawing_iff r).mp hr with hs | hs
  · obtain ⟨-, -, -, -, h5, -, h7⟩ := (Surface.wf_live_iff hs hd).mp h
    exact ⟨h5, h7⟩
  · obtain ⟨-, -, -, -, h5, -, -, h8⟩ := (Surface.wf_retiring_iff hs hd).mp h
    exact ⟨h5, h8⟩

theorem Surface.ne_vacant_of_drawing {r : Surface} (h : r.drawing = true) : r.state ≠ .vacant := by
  rcases (Surface.drawing_iff r).mp h with hs | hs <;> simp [hs]

/-- The record with another staged list and staged page. -/
def Surface.withStaged (r : Surface) (items : List Item) (p : Option Page) : Surface :=
  { r with staged := items, stagedPage := p }

/-- The record with another frame record. -/
def Surface.withFrame (r : Surface) (fr : FrameRecord) : Surface := { r with frame := fr }

theorem Surface.wf_withStaged {r : Surface} (h : r.wf = true) (hv : r.state ≠ .vacant) {items : List Item}
    (hi : items.length ≤ 16) {p : Option Page} (hp : p.isSome = true) :
    (r.withStaged items p).wf = true := by
  obtain ⟨d, hd⟩ := Surface.exists_defn h hv
  cases hs : r.state with
  | vacant => contradiction
  | defined =>
    obtain ⟨h1, -, -, h4⟩ := (Surface.wf_defined_iff hs hd).mp h
    exact (Surface.wf_defined_iff (r := r.withStaged items p) hs hd).mpr ⟨h1, hi, hp, h4⟩
  | live =>
    obtain ⟨h1, -, -, h4⟩ := (Surface.wf_live_iff hs hd).mp h
    exact (Surface.wf_live_iff (r := r.withStaged items p) hs hd).mpr ⟨h1, hi, hp, h4⟩
  | retiring =>
    obtain ⟨h1, -, -, h4⟩ := (Surface.wf_retiring_iff hs hd).mp h
    exact (Surface.wf_retiring_iff (r := r.withStaged items p) hs hd).mpr ⟨h1, hi, hp, h4⟩

theorem Surface.wf_withFrame {r : Surface} {d : SurfaceDef} (h : r.wf = true) (hr : r.drawing = true)
    (hd : r.defn = some d) {fr : FrameRecord} (hf : fr.wf d = true) :
    (r.withFrame fr).wf = true := by
  rcases (Surface.drawing_iff r).mp hr with hs | hs
  · obtain ⟨h1, h2, h3, h4, h5, h6, -⟩ := (Surface.wf_live_iff hs hd).mp h
    exact (Surface.wf_live_iff (r := r.withFrame fr) hs hd).mpr ⟨h1, h2, h3, h4, h5, h6, hf⟩
  · obtain ⟨h1, h2, h3, h4, h5, h6, h7, -⟩ := (Surface.wf_retiring_iff hs hd).mp h
    exact (Surface.wf_retiring_iff (r := r.withFrame fr) hs hd).mpr ⟨h1, h2, h3, h4, h5, h6, h7, hf⟩

theorem Surface.wf_committed {r : Surface} (h : r.wf = true) (hs : r.state = .live) : r.committed.wf = true := by
  obtain ⟨d, hd⟩ := Surface.exists_defn h (by simp [hs])
  obtain ⟨h1, h2, h3, -, -, -, h7⟩ := (Surface.wf_live_iff hs hd).mp h
  exact (Surface.wf_live_iff (r := r.committed) hs hd).mpr ⟨h1, by simp [Surface.committed], h3, h2, h3, rfl, h7⟩

theorem Surface.wf_retired {r : Surface} (h : r.wf = true) (hs : r.state = .retiring) : r.retired.wf = true := by
  obtain ⟨d, hd⟩ := Surface.exists_defn h (by simp [hs])
  obtain ⟨h1, h2, h3, -, -, h6, -⟩ := (Surface.wf_retiring_iff hs hd).mp h
  exact (Surface.wf_defined_iff (r := r.retired) rfl hd).mpr ⟨h1, h2, h3, rfl, rfl, h6, rfl⟩

theorem SurfaceDef.legal_iff (d : SurfaceDef) :
    d.legal = true ↔
      d.rangesOk = true ∧ d.consistent = true ∧ (d.bufferCount = 1 → d.stride = d.bufferSize) := by
  simp only [SurfaceDef.legal, Bool.and_eq_true, Bool.or_eq_true, bne_iff_ne, beq_iff_eq, and_assoc, ← imp_iff_not_or]

theorem SurfaceDef.rangesOk_iff (d : SurfaceDef) :
    d.rangesOk = true ↔
      d.base ≤ 0xFFFFFFFC0 ∧ d.base % 64 = 0 ∧ 64 ≤ d.pitch ∧ d.pitch ≤ 65536 ∧ d.pitch % 64 = 0 ∧
        16 ≤ d.width ∧ d.width ≤ 4096 ∧ 16 ≤ d.height ∧ d.height ≤ 4096 ∧ 1 ≤ d.bufferCount ∧ d.bufferCount ≤ 4 ∧
        (d.bufferCount = 1 ∨ 4096 ≤ d.stride ∧ d.stride ≤ 268435456 ∧ d.stride % 4096 = 0) ∧
        d.rewindTolerance ≤ 255 ∧ d.deadline ≤ 65535 := by
  simp [SurfaceDef.rangesOk, and_assoc]

theorem SurfaceDef.consistent_iff (d : SurfaceDef) :
    d.consistent = true ↔
      d.width * d.format.bpp ≤ d.pitch ∧ (d.format = .yuyv → d.width % 2 = 0) ∧
        (d.bufferCount = 1 ∨ d.bufferSize ≤ d.stride) ∧
        d.base + (d.bufferCount - 1) * d.stride + d.bufferSize ≤ 0x1000000000 := by
  simp [SurfaceDef.consistent, and_assoc, imp_iff_not_or]

theorem SurfaceDef.height_pos {d : SurfaceDef} (h : d.legal = true) : 0 < d.height := by
  obtain ⟨hr, -, -⟩ := d.legal_iff.mp h
  obtain ⟨-, -, -, -, -, -, -, hh, -⟩ := d.rangesOk_iff.mp hr
  omega

/-- A definition that DEFINE SURFACE accepts is legal (R3, R4). -/
theorem surfaceDefOf_legal {bytes : List Byte} {d : SurfaceDef} (h : surfaceDefOf bytes = some d) : d.legal = true := by
  unfold surfaceDefOf at h
  split at h
  · simp only at h
    split at h
    · rename_i hc
      cases h
      simp only [Bool.and_eq_true] at hc
      refine (SurfaceDef.legal_iff _).mpr ⟨hc.1, hc.2, fun hb => ?_⟩
      unfold SurfaceDef.withOwnStride at hb ⊢
      split
      · rfl
      · rename_i hn
        rw [if_neg hn] at hb
        exact absurd hb hn
    · cases h
  · cases h

theorem FrameRecord.wf_cleared {d : SurfaceDef} (h : d.legal = true) : FrameRecord.cleared.wf d = true := by
  simp [FrameRecord.cleared, FrameRecord.wf, SurfaceDef.height_pos h]

theorem Surface.wf_newlyDefined {d : SurfaceDef} (h : d.legal = true) : (Surface.newlyDefined d).wf = true :=
  (Surface.wf_defined_iff (d := d) rfl rfl).mpr
    ⟨h, by simp [Surface.newlyDefined, Surface.vacant], rfl, rfl, rfl, rfl, rfl⟩

theorem Surface.wf_redefined {r : Surface} {d : SurfaceDef} (h : r.wf = true) (hs : r.state = .defined)
    (hd : d.legal = true) : ({ r with defn := some d } : Surface).wf = true := by
  obtain ⟨e, he⟩ := Surface.exists_defn h (by simp [hs])
  exact (Surface.wf_defined_iff (r := { r with defn := some d }) hs rfl).mpr
    ⟨hd, ((Surface.wf_defined_iff hs he).mp h).2⟩

theorem Surface.wf_activated {r : Surface} (h : r.wf = true) (hs : r.state = .defined) : r.activated.wf = true := by
  obtain ⟨d, hd⟩ := Surface.exists_defn h (by simp [hs])
  obtain ⟨h1, h2, h3, -⟩ := (Surface.wf_defined_iff hs hd).mp h
  exact (Surface.wf_live_iff (r := r.activated) (d := d) rfl hd).mpr
    ⟨h1, by simp [Surface.activated], h3, h2, h3, rfl, FrameRecord.wf_cleared h1⟩

theorem Surface.armedDeadline_eq {r : Surface} {d : SurfaceDef} (hd : r.defn = some d) :
    r.armedDeadline = if d.deadline = 0 then none else some d.deadline := by
  rw [Surface.armedDeadline, hd, Option.bind_some]

/-- An armed deadline runs from the deadline field (R59). -/
theorem Surface.deadlineWf_armed {r : Surface} {d : SurfaceDef} (hd : r.defn = some d) :
    deadlineWf d r.armedDeadline = true := by
  rw [Surface.armedDeadline_eq hd]
  split
  · simpa [deadlineWf]
  · simp only [deadlineWf, Bool.and_eq_true, decide_eq_true_eq]; omega

theorem Surface.wf_beginRetirement {r : Surface} (h : r.wf = true) (hs : r.state = .live) :
    r.beginRetirement.wf = true := by
  obtain ⟨d, hd⟩ := Surface.exists_defn h (by simp [hs])
  obtain ⟨h1, h2, h3, h4, h5, -, h7⟩ := (Surface.wf_live_iff hs hd).mp h
  exact (Surface.wf_retiring_iff (r := r.beginRetirement) (d := d) rfl hd).mpr
    ⟨h1, h2, h3, h4, h5, rfl, Surface.deadlineWf_armed hd, h7⟩

theorem Surface.wf_withCommit {r : Surface} (h : r.wf = true) (hs : r.state = .live) : r.withCommit.wf = true := by
  obtain ⟨d, hd⟩ := Surface.exists_defn h (by simp [hs])
  obtain ⟨h1, h2, h3, h4, h5, -, h7⟩ := (Surface.wf_live_iff hs hd).mp h
  exact (Surface.wf_live_iff (r := r.withCommit) (d := d) hs hd).mpr
    ⟨h1, h2, h3, h4, h5, Surface.deadlineWf_armed hd, h7⟩

theorem Surface.wf_withoutCommit {r : Surface} (h : r.wf = true) (hs : r.state = .live) :
    ({ r with commitPending := false, deadlineRemaining := none } : Surface).wf = true := by
  obtain ⟨d, hd⟩ := Surface.exists_defn h (by simp [hs])
  obtain ⟨h1, h2, h3, h4, h5, -, h7⟩ := (Surface.wf_live_iff hs hd).mp h
  exact (Surface.wf_live_iff (r := { r with commitPending := false, deadlineRemaining := none }) hs hd).mpr
    ⟨h1, h2, h3, h4, h5, rfl, h7⟩

end Sys2Proof.Machine
end

section
/-! What every row of the table may do to the surface table (R1, R6, R11), once for each operation: the records stay
well formed and the clock valid, and but for ACTIVATE SURFACE no surface comes to draw anywhere new. -/

namespace Sys2Proof.Machine

/-! ### Reading the table -/

theorem State.tableAfter_setSurf (s : State) (n : SurfaceId) (r : Surface) : s.TableAfter (s.setSurf n r) n r :=
  ⟨State.surf_setSurf_same s n r, fun m hm => State.surf_setSurf_ne s n m r hm.symm⟩

/-- The comparison of two definitions, in the terms of R11. -/
theorem SurfaceDef.overlaps_iff (d e : SurfaceDef) : d.overlaps e = true ↔ d.Overlap e := by
  simp only [SurfaceDef.overlaps, List.any_eq_true, List.mem_range, Bool.and_eq_true,
    SurfaceDef.bufferStart, SurfaceDef.bufferSize, SurfaceDef.Overlap]
  constructor
  · rintro ⟨i, hi, j, hj, h1, h2⟩
    exact ⟨i, j, hi, hj, of_decide_eq_true h1, of_decide_eq_true h2⟩
  · rintro ⟨i, j, hi, hj, h1, h2⟩
    exact ⟨i, hi, j, hj, decide_eq_true h1, decide_eq_true h2⟩

theorem SurfaceDef.Overlap.symm {d e : SurfaceDef} (h : d.Overlap e) : e.Overlap d := by
  obtain ⟨i, j, hi, hj, h1, h2⟩ := h
  exact ⟨j, i, hj, hi, h2, h1⟩

theorem Surface.blocks_iff (r : Surface) (d : SurfaceDef) :
    r.blocks d = true ↔ r.drawing = true ∧ ∃ e, r.defn = some e ∧ d.Overlap e := by
  unfold Surface.blocks
  cases r.defn with
  | none => simp
  | some e => simp [SurfaceDef.overlaps_iff]

theorem State.blocks_iff_overlapsWith (s : State) (m : SurfaceId) (d : SurfaceDef) :
    (s.surf m).blocks d = true ↔ s.OverlapsWith d m := by
  rw [Surface.blocks_iff, Surface.drawing_iff]

/-- Two different drawing surfaces have definitions that do not overlap. -/
theorem State.rangesDisjoint_iff (s : State) :
    s.RangesDisjoint ↔
      ∀ n m : SurfaceId, n ≠ m → (s.surf n).drawing = true → (s.surf m).drawing = true →
        ∀ d e, (s.surf n).defn = some d → (s.surf m).defn = some e → ¬d.Overlap e := by
  refine forall₂_congr fun n m => imp_congr_right fun _ => imp_congr_right fun _ => ?_
  rw [← Bool.not_eq_true, Option.any_eq_true]
  simp only [Surface.blocks_iff, not_exists, not_and]
  exact ⟨fun h hm d e hd he => h d hd hm e he, fun h d hd hm e he => h hm d e hd he⟩

/-! ### Changes of the table that bring nothing new -/

/-- `t` has a well-formed table, in which every drawing surface drew in `s`, with the same definition. -/
def State.TableMoves (s t : State) : Prop :=
  t.TableWf ∧ ∀ n : SurfaceId, (t.surf n).drawing = true →
    (s.surf n).drawing = true ∧ (t.surf n).defn = (s.surf n).defn

theorem State.TableMoves.trans {s t u : State} (h : s.TableMoves t) (g : t.TableMoves u) : s.TableMoves u := by
  refine ⟨g.1, fun n hn => ?_⟩
  obtain ⟨ht, hu⟩ := g.2 n hn
  exact ⟨(h.2 n ht).1, hu.trans (h.2 n ht).2⟩

theorem State.TableMoves.rangesDisjoint {s t : State} (h : s.TableMoves t) (hd : s.RangesDisjoint) :
    t.RangesDisjoint := by
  rw [State.rangesDisjoint_iff] at hd ⊢
  intro n m hnm hn hm d e hde hee
  obtain ⟨hn', en⟩ := h.2 n hn
  obtain ⟨hm', em⟩ := h.2 m hm
  exact hd n m hnm hn' hm' d e (en ▸ hde) (em ▸ hee)

/-- A state with the table of a well-formed one, and its clock or another valid one. -/
theorem State.TableWf.movesTo {s t : State} (h : s.TableWf) (hs : ∀ n, t.surf n = s.surf n)
    (hc : t.clock.valid = true) : s.TableMoves t :=
  ⟨⟨hc, fun n => by rw [hs n]; exact h.2 n⟩, fun n hn => by rw [hs n] at hn ⊢; exact ⟨hn, rfl⟩⟩

theorem State.TableWf.stays {s t : State} (h : s.TableWf) (hs : t.surfaces = s.surfaces) (hc : t.clock = s.clock) :
    s.TableMoves t :=
  h.movesTo (fun n => State.surf_congr hs n) (hc ▸ h.1)

theorem State.TableWf.refl {s : State} (h : s.TableWf) : s.TableMoves s := h.stays rfl rfl

/-- One record takes a well-formed value that draws only where the old one did. -/
theorem State.TableWf.moves {s t : State} (h : s.TableWf) {n : SurfaceId} {r : Surface} (ht : s.TableAfter t n r)
    (hc : t.clock = s.clock) (hw : r.wf = true)
    (hd : r.drawing = true → (s.surf n).drawing = true ∧ r.defn = (s.surf n).defn) : s.TableMoves t := by
  obtain ⟨hn, hm⟩ := ht
  have hsurf : ∀ m, t.surf m = if m = n then r else s.surf m := by
    intro m
    split
    · rename_i e; rw [e]; exact hn
    · exact hm m ‹_›
  refine ⟨⟨hc ▸ h.1, fun m => ?_⟩, fun m => ?_⟩ <;> rw [hsurf m] <;> split
  · exact hw
  · exact h.2 m
  · rename_i e; rw [e]; exact hd
  · exact fun hx => ⟨hx, rfl⟩

/-- Every record VACANT. -/
theorem State.tableMoves_of_vacant {s t : State} (hv : ∀ n, t.surf n = .vacant) (hc : t.clock.valid = true) :
    s.TableMoves t :=
  ⟨⟨hc, fun n => by rw [hv n]; rfl⟩, fun n hn => by rw [hv n] at hn; cases hn⟩

theorem Surface.drawing_of_live {r : Surface} (h : r.state = .live) : r.drawing = true :=
  (Surface.drawing_iff r).mpr (.inl h)

theorem Surface.drawing_of_retiring {r : Surface} (h : r.state = .retiring) : r.drawing = true :=
  (Surface.drawing_iff r).mpr (.inr h)

theorem Surface.not_drawing_of_defined {r : Surface} (h : r.state = .defined) : r.drawing = false := by
  simp [Surface.drawing, h]

/-! ### Commits, retirements and deadlines (R63, R14, R15, R65, R66) -/

theorem State.applyCommit_tableAfter (s : State) (n : SurfaceId) :
    s.TableAfter (s.applyCommit n) n (s.surf n).committed := (s.applyCommit_spec n).2.2

theorem State.completeRetirement_tableAfter (s : State) (n : SurfaceId) (forced : Bool) :
    s.TableAfter (s.completeRetirement n forced) n (s.surf n).retired := (s.completeRetirement_spec n forced).2.2.2

@[simp] theorem State.applyCommit_clock (s : State) (n : SurfaceId) : (s.applyCommit n).clock = s.clock := by
  simp [State.applyCommit]

@[simp] theorem State.completeRetirement_clock (s : State) (n : SurfaceId) (forced : Bool) :
    (s.completeRetirement n forced).clock = s.clock := by
  simp [State.completeRetirement]

theorem State.TableWf.moves_applyCommit {s : State} (h : s.TableWf) {n : SurfaceId} (hs : (s.surf n).state = .live) :
    s.TableMoves (s.applyCommit n) :=
  h.moves (s.applyCommit_tableAfter n) (by simp) (Surface.wf_committed (h.2 n) hs)
    fun _ => ⟨Surface.drawing_of_live hs, rfl⟩

theorem State.TableWf.moves_completeRetirement {s : State} (h : s.TableWf) {n : SurfaceId}
    (hs : (s.surf n).state = .retiring) (forced : Bool) : s.TableMoves (s.completeRetirement n forced) :=
  h.moves (s.completeRetirement_tableAfter n forced) (by simp) (Surface.wf_retired (h.2 n) hs)
    fun _ => ⟨Surface.drawing_of_retiring hs, rfl⟩

theorem State.TableWf.moves_post {s : State} (h : s.TableWf) (x : Notice) : s.TableMoves (s.post x) := h.stays rfl rfl

theorem State.TableAfter.trans {s t u : State} {n : SurfaceId} {r r' : Surface} (h : s.TableAfter t n r)
    (g : t.TableAfter u n r') : s.TableAfter u n r' :=
  ⟨g.1, fun m hm => (g.2 m hm).trans (h.2 m hm)⟩

/-- The record after a tick has counted its deadline. -/
def Surface.countedDown (r : Surface) : Surface :=
  if r.countsDeadline then { r with deadlineRemaining := r.deadlineRemaining.map fun d => d - 1 } else r

/-- The record after the expiry of a commit's deadline, if it expires. -/
def Surface.commitForced (r : Surface) : Surface :=
  if r.state = .live ∧ r.commitPending = true ∧ r.deadlineRemaining = some 0 then r.committed else r

/-- The record after the expiry of a retirement's deadline, if it expires. -/
def Surface.retirementForced (r : Surface) : Surface :=
  if r.state = .retiring ∧ r.deadlineRemaining = some 0 then r.retired else r

theorem State.tableAfter_self (s : State) (n : SurfaceId) : s.TableAfter s n (s.surf n) := ⟨rfl, fun _ _ => rfl⟩

theorem State.countDown_tableAfter (s : State) (n : SurfaceId) :
    s.TableAfter (s.countDown n) n (s.surf n).countedDown := by
  unfold State.countDown Surface.countedDown
  split
  · exact s.tableAfter_setSurf n _
  · exact s.tableAfter_self n

theorem State.forceCommit_tableAfter (s : State) (n : SurfaceId) :
    s.TableAfter (s.forceCommit n) n (s.surf n).commitForced := by
  unfold State.forceCommit Surface.commitForced
  dsimp only
  split
  · exact s.applyCommit_tableAfter n
  · exact s.tableAfter_self n

theorem State.forceRetirement_tableAfter (s : State) (n : SurfaceId) :
    s.TableAfter (s.forceRetirement n) n (s.surf n).retirementForced := by
  unfold State.forceRetirement Surface.retirementForced
  split
  · exact s.completeRetirement_tableAfter n true
  · exact s.tableAfter_self n

theorem State.tickSurface_tableAfter (s : State) (n : SurfaceId) :
    s.TableAfter (s.tickSurface n) n (s.surf n).countedDown.commitForced.retirementForced := by
  have h1 := s.countDown_tableAfter n
  have h2 := (s.countDown n).forceCommit_tableAfter n
  have h3 := ((s.countDown n).forceCommit n).forceRetirement_tableAfter n
  rw [h1.1] at h2
  rw [h2.1] at h3
  exact (h1.trans h2).trans h3

@[simp] theorem State.countDown_clock (s : State) (n : SurfaceId) : (s.countDown n).clock = s.clock := by
  unfold State.countDown; split <;> simp

@[simp] theorem State.forceCommit_clock (s : State) (n : SurfaceId) : (s.forceCommit n).clock = s.clock := by
  rcases s.forceCommit_cases n with ⟨-, -, -, he⟩ | ⟨-, he⟩ <;> simp [he]

@[simp] theorem State.forceRetirement_clock (s : State) (n : SurfaceId) : (s.forceRetirement n).clock = s.clock := by
  rcases s.forceRetirement_cases n with ⟨-, -, he⟩ | ⟨-, he⟩ <;> simp [he]

@[simp] theorem State.tickSurface_clock (s : State) (n : SurfaceId) : (s.tickSurface n).clock = s.clock := by
  simp [State.tickSurface]

theorem Surface.wf_commitForced {r : Surface} (h : r.wf = true) : r.commitForced.wf = true := by
  unfold Surface.commitForced
  split
  · rename_i hc; exact Surface.wf_committed h hc.1
  · exact h

theorem Surface.wf_retirementForced {r : Surface} (h : r.wf = true) : r.retirementForced.wf = true := by
  unfold Surface.retirementForced
  split
  · rename_i hc; exact Surface.wf_retired h hc.1
  · exact h

/-- A deadline of which more than one tick is left falls by one. -/
theorem deadlineWf_pred {d : SurfaceDef} {o : Option Nat} (h : deadlineWf d o = true) (h1 : o ≠ some 1) :
    deadlineWf d (o.map fun k => k - 1) = true := by
  cases o with
  | none => exact h
  | some k =>
    simp only [deadlineWf, Option.map_some, Bool.and_eq_true, decide_eq_true_eq, ne_eq, Option.some.injEq] at *
    omega

theorem Surface.countsDeadline_iff (r : Surface) :
    r.countsDeadline = true ↔ (r.state = .live ∧ r.commitPending = true) ∨ r.state = .retiring := by
  simp [Surface.countsDeadline]

theorem Surface.wf_countedDown {r : Surface} (h : r.wf = true) (h1 : r.deadlineRemaining ≠ some 1) :
    r.countedDown.wf = true := by
  unfold Surface.countedDown
  split
  case isFalse => exact h
  case isTrue hc =>
  rcases (Surface.countsDeadline_iff r).mp hc with ⟨hs, hp⟩ | hs <;>
    obtain ⟨d, hd⟩ := Surface.exists_defn h (by simp [hs])
  · obtain ⟨g1, g2, g3, g4, g5, g6, g7⟩ := (Surface.wf_live_iff hs hd).mp h
    rw [if_pos hp] at g6
    refine (Surface.wf_live_iff (d := d) (by exact hs) (by exact hd)).mpr ⟨g1, g2, g3, g4, g5, ?_, g7⟩
    exact (if_pos hp).mpr (deadlineWf_pred g6 h1)
  · obtain ⟨g1, g2, g3, g4, g5, g6, g7, g8⟩ := (Surface.wf_retiring_iff hs hd).mp h
    exact (Surface.wf_retiring_iff (d := d) (by exact hs) (by exact hd)).mpr
      ⟨g1, g2, g3, g4, g5, g6, deadlineWf_pred g7 h1, g8⟩

/-- The record after a tick is well formed: where the count would stand at 0, the expiry clears it (R15, R65, R66). -/
theorem Surface.wf_afterTick {r : Surface} (h : r.wf = true) :
    r.countedDown.commitForced.retirementForced.wf = true := by
  by_cases h1 : r.deadlineRemaining = some 1
  · cases hs : r.state with
    | vacant => rw [(Surface.wf_vacant_iff hs).mp h]; rfl
    | defined =>
      obtain ⟨d, hd⟩ := Surface.exists_defn h (by simp [hs])
      obtain ⟨-, -, -, -, -, -, hn⟩ := (Surface.wf_defined_iff hs hd).mp h
      rw [h1] at hn; cases hn
    | live =>
      by_cases hp : r.commitPending = true
      · have : r.countedDown.commitForced = r.committed := by
          simp [Surface.countedDown, Surface.countsDeadline, Surface.commitForced, Surface.committed, hs, hp, h1]
        rw [this]
        exact Surface.wf_retirementForced (Surface.wf_committed h hs)
      · have : r.countedDown = r := by simp [Surface.countedDown, Surface.countsDeadline, hs, hp]
        rw [this]
        exact Surface.wf_retirementForced (Surface.wf_commitForced h)
    | retiring =>
      have : r.countedDown.commitForced.retirementForced = r.retired := by
        simp [Surface.countedDown, Surface.countsDeadline, Surface.commitForced, Surface.retirementForced,
          Surface.retired, hs, h1]
      rw [this]
      exact Surface.wf_retired h hs
  · exact Surface.wf_retirementForced (Surface.wf_commitForced (Surface.wf_countedDown h h1))

/-- A tick keeps the definition, and makes no surface draw that did not. -/
theorem Surface.afterTick_within (r : Surface) :
    r.countedDown.commitForced.retirementForced.drawing = true →
      r.drawing = true ∧ r.countedDown.commitForced.retirementForced.defn = r.defn := by
  have hc : r.countedDown.state = r.state ∧ r.countedDown.defn = r.defn := by
    unfold Surface.countedDown; split <;> exact ⟨rfl, rfl⟩
  have hf : r.countedDown.commitForced.state = r.state ∧ r.countedDown.commitForced.defn = r.defn := by
    unfold Surface.commitForced; split <;> exact hc
  unfold Surface.retirementForced
  split
  · intro hd; cases hd
  · intro hd
    rw [Surface.drawing_iff, hf.1, ← Surface.drawing_iff] at hd
    exact ⟨hd, hf.2⟩

theorem State.TableWf.moves_tickSurface {s : State} (h : s.TableWf) (n : SurfaceId) :
    s.TableMoves (s.tickSurface n) :=
  h.moves (s.tickSurface_tableAfter n) (by simp) (Surface.wf_afterTick (h.2 n)) (Surface.afterTick_within _)

theorem State.TableWf.moves_forceCommit {s : State} (h : s.TableWf) (n : SurfaceId) :
    s.TableMoves (s.forceCommit n) := by
  rcases s.forceCommit_cases n with ⟨hs, -, -, he⟩ | ⟨-, he⟩ <;> rw [he]
  · have ha := h.moves_applyCommit hs
    exact ha.trans (ha.1.moves_post _)
  · exact h.refl

theorem State.TableWf.moves_forceRetirement {s : State} (h : s.TableWf) (n : SurfaceId) :
    s.TableMoves (s.forceRetirement n) := by
  rcases s.forceRetirement_cases n with ⟨hs, -, he⟩ | ⟨-, he⟩ <;> rw [he]
  · exact h.moves_completeRetirement hs true
  · exact h.refl

theorem State.TableWf.moves_tickSurfaces {s : State} (h : s.TableWf) (ns : List SurfaceId) :
    s.TableMoves (ns.foldl State.tickSurface s) := by
  induction ns generalizing s with
  | nil => exact h.refl
  | cons n ns ih =>
    have hn := h.moves_tickSurface n
    exact hn.trans (ih hn.1)

theorem State.TableWf.moves_tickClock {s : State} (h : s.TableWf) : s.TableMoves s.tickClock := by
  refine h.movesTo (fun n => ?_) (State.tickClock_valid h.1)
  rcases s.tickClock_cases with ⟨-, hs⟩ | ⟨-, -, hs⟩ | ⟨-, -, hs⟩ <;> rw [hs] <;> rfl

end Sys2Proof.Machine
end

section
/-! The cut of a write into portions (R6 to R8), and what the taking of a write does to the surface table (R9, R22 to
R25). -/

namespace Sys2Proof.Machine

/-! ### Where an address lies (R6, R7) -/

/-- Buffer `k` of the definition holds the address `a` (R6). -/
def SurfaceDef.Holds (d : SurfaceDef) (k : BufferId) (a : Nat) : Prop :=
  k.val < d.bufferCount ∧ d.bufferStart k.val ≤ a ∧ a < d.bufferStart k.val + d.bufferSize

theorem SurfaceDef.holds_of_bufferAt {d : SurfaceDef} {a : Nat} {k : BufferId} (h : d.bufferAt a = some k) :
    d.Holds k a := by
  have hk := List.find?_some h
  simp only [Bool.and_eq_true, decide_eq_true_eq] at hk
  exact ⟨hk.1.1, hk.1.2, hk.2⟩

theorem Surface.bufferAt_eq_some {r : Surface} {a : Nat} {k : BufferId} (h : r.bufferAt a = some k) :
    r.drawing = true ∧ ∃ d, r.defn = some d ∧ d.bufferAt a = some k := by
  unfold Surface.bufferAt at h
  split at h
  · exact ⟨‹_›, Option.bind_eq_some_iff.mp h⟩
  · cases h

theorem State.bufferAt_of_locate {s : State} {a : Nat} {ref : BufferRef} (h : s.locate a = some ref) :
    (s.surf ref.surface).bufferAt a = some ref.buffer := by
  obtain ⟨n, -, hn⟩ := List.exists_of_findSome?_eq_some h
  obtain ⟨k, hk, rfl⟩ := Option.map_eq_some_iff.mp hn
  exact hk

/-- The buffers of a legal definition lie one behind another: an address lies on one of them at most (R4, R6). -/
theorem SurfaceDef.Holds.unique {d : SurfaceDef} (hd : d.legal = true) {k j : BufferId} {a : Nat} (hk : d.Holds k a)
    (hj : d.Holds j a) : k = j := by
  obtain ⟨-, hc, -⟩ := d.legal_iff.mp hd
  obtain ⟨-, -, hs, -⟩ := d.consistent_iff.mp hc
  obtain ⟨hk1, hk2, hk3⟩ := hk
  obtain ⟨hj1, hj2, hj3⟩ := hj
  simp only [SurfaceDef.bufferStart] at *
  rcases hs with hs | hs
  · exact Fin.ext (by omega)
  · have apart : ∀ x y : Nat, x < y → x * d.stride + d.bufferSize ≤ y * d.stride := fun x y hxy =>
      calc x * d.stride + d.bufferSize ≤ (x + 1) * d.stride := by rw [Nat.succ_mul]; omega
        _ ≤ y * d.stride := Nat.mul_le_mul_right _ hxy
    rcases Nat.lt_trichotomy k.val j.val with hlt | heq | hlt
    · have := apart _ _ hlt; omega
    · exact Fin.ext heq
    · have := apart _ _ hlt; omega

theorem mem_bufferIds (k : BufferId) : k ∈ bufferIds := by revert k; decide

theorem SurfaceDef.Holds.bufferAt {d : SurfaceDef} (hd : d.legal = true) {k : BufferId} {a : Nat} (hk : d.Holds k a) :
    d.bufferAt a = some k := by
  have hsome : (d.bufferAt a).isSome = true := by
    obtain ⟨h1, h2, h3⟩ := hk
    exact List.find?_isSome.mpr ⟨k, mem_bufferIds k, by simp [h1, h2, h3]⟩
  obtain ⟨j, hj⟩ := Option.isSome_iff_exists.mp hsome
  rw [hj, hk.unique hd (SurfaceDef.holds_of_bufferAt hj)]

theorem Surface.bufferAt_of_holds {r : Surface} {d : SurfaceDef} (hr : r.drawing = true) (hd : r.defn = some d)
    (hl : d.legal = true) {k : BufferId} {a : Nat} (hk : d.Holds k a) : r.bufferAt a = some k := by
  rw [Surface.bufferAt, if_pos hr, hd]
  exact hk.bufferAt hl

theorem mem_surfaceIds (n : SurfaceId) : n ∈ surfaceIds := by revert n; decide

/-- In a table whose drawing surfaces are apart, an address on a buffer is located there (R6, R7). -/
theorem State.locate_of_holds {s : State} (hw : s.TableWf) (hdis : s.RangesDisjoint) {n : SurfaceId} {d : SurfaceDef}
    (hr : (s.surf n).drawing = true) (hd : (s.surf n).defn = some d) {k : BufferId} {a : Nat} (hk : d.Holds k a) :
    s.locate a = some ⟨n, k⟩ := by
  have hlegal := (Surface.wf_common (hw.2 n) (Surface.ne_vacant_of_drawing hr) hd).1
  have hn : (s.surf n).bufferAt a = some k := Surface.bufferAt_of_holds hr hd hlegal hk
  have hsome : (s.locate a).isSome = true := by
    rw [State.locate, List.findSome?_isSome_iff]
    exact ⟨n, mem_surfaceIds n, by simp [hn]⟩
  obtain ⟨⟨m, j⟩, hm⟩ := Option.isSome_iff_exists.mp hsome
  have hb := State.bufferAt_of_locate hm
  obtain ⟨hrm, e, he, hbe⟩ := Surface.bufferAt_eq_some hb
  have hmn : m = n := by
    by_contra hne
    have hover : d.Overlap e := by
      obtain ⟨h1, h2, h3⟩ := hk
      obtain ⟨g1, g2, g3⟩ := SurfaceDef.holds_of_bufferAt hbe
      simp only [SurfaceDef.bufferStart, SurfaceDef.bufferSize] at *
      exact ⟨k.val, j.val, h1, g1, by omega, by omega⟩
    exact (State.rangesDisjoint_iff s).mp hdis n m (Ne.symm hne) hr hrm d e hd he hover
  subst hmn
  rw [hn] at hb
  cases hb
  exact hm

/-! ### The portions of a write (R8) -/

/-- Every byte of the portion, which has some, lies where its target says. -/
def Portion.Located (s : State) (p : Portion) : Prop :=
  p.lanes ≠ [] ∧ ∀ i : Nat, i < p.lanes.length → s.locate (p.start + i) = p.target

theorem State.portions_cons (s : State) (a : Nat) (l : Lane) (rest : List Lane) :
    (s.portions (a + 1) rest = [] ∧ s.portions a (l :: rest) = [⟨a, s.locate a, [l]⟩]) ∨
      (∃ p ps, s.portions (a + 1) rest = p :: ps ∧ p.target = s.locate a ∧
        s.portions a (l :: rest) = ⟨a, p.target, l :: p.lanes⟩ :: ps) ∨
      ∃ p ps, s.portions (a + 1) rest = p :: ps ∧ p.target ≠ s.locate a ∧
        s.portions a (l :: rest) = ⟨a, s.locate a, [l]⟩ :: p :: ps := by
  rw [State.portions]
  split
  · exact .inl ⟨‹_›, rfl⟩
  · rename_i p ps h
    split
    · exact .inr (.inl ⟨p, ps, h, ‹_›, rfl⟩)
    · exact .inr (.inr ⟨p, ps, h, ‹_›, rfl⟩)

theorem State.portions_lanes (s : State) (a : Nat) (lanes : List Lane) :
    (s.portions a lanes).flatMap Portion.lanes = lanes := by
  induction lanes generalizing a with
  | nil => rfl
  | cons l rest ih =>
    specialize ih (a + 1)
    rcases s.portions_cons a l rest with ⟨h, e⟩ | ⟨p, ps, h, -, e⟩ | ⟨p, ps, h, -, e⟩ <;> rw [h] at ih <;> rw [e, ← ih]
      <;> rfl

/-- The first portion begins where the write does. -/
theorem State.portions_head_start {s : State} {a : Nat} {lanes : List Lane} {p : Portion} {ps : List Portion}
    (h : s.portions a lanes = p :: ps) : p.start = a := by
  cases lanes with
  | nil => cases h
  | cons l rest =>
    rcases s.portions_cons a l rest with ⟨-, e⟩ | ⟨q, qs, -, -, e⟩ | ⟨q, qs, -, -, e⟩ <;> rw [e] at h <;> cases h <;>
      rfl

theorem Portion.located_single (s : State) (a : Nat) (l : Lane) : Portion.Located s ⟨a, s.locate a, [l]⟩ := by
  refine ⟨by simp, fun i hi => ?_⟩
  obtain rfl : i = 0 := by simpa using hi
  rfl

theorem Portion.Located.extend {s : State} {a : Nat} {p : Portion} (hp : p.Located s) (hs : p.start = a + 1)
    (ht : p.target = s.locate a) (l : Lane) : Portion.Located s ⟨a, p.target, l :: p.lanes⟩ := by
  refine ⟨by simp, fun i hi => ?_⟩
  cases i with
  | zero => exact ht.symm
  | succ i =>
    have := hp.2 i (by simpa using hi)
    rwa [hs, Nat.add_assoc, Nat.add_comm 1 i] at this

theorem State.portions_located (s : State) (a : Nat) (lanes : List Lane) :
    ∀ p ∈ s.portions a lanes, p.Located s := by
  induction lanes generalizing a with
  | nil => intro p hp; cases hp
  | cons l rest ih =>
    specialize ih (a + 1)
    rcases s.portions_cons a l rest with ⟨-, e⟩ | ⟨p, ps, h, ht, e⟩ | ⟨p, ps, h, -, e⟩ <;> rw [e]
    · simpa using Portion.located_single s a l
    · rw [h] at ih
      have hp := ih p (by simp)
      exact List.forall_mem_cons.mpr ⟨hp.extend (State.portions_head_start h) ht l, (List.forall_mem_cons.mp ih).2⟩
    · rw [h] at ih
      exact List.forall_mem_cons.mpr ⟨Portion.located_single s a l, ih⟩

/-- Each portion begins behind the bytes of those before it. -/
theorem State.portions_start {s : State} {a : Nat} {lanes : List Lane} {before after : List Portion} {p : Portion}
    (h : s.portions a lanes = before ++ p :: after) : p.start = a + (before.flatMap Portion.lanes).length := by
  induction lanes generalizing a before with
  | nil => cases before <;> cases h
  | cons l rest ih =>
    cases before with
    | nil => exact State.portions_head_start h
    | cons b bs =>
      rcases s.portions_cons a l rest with ⟨-, e⟩ | ⟨q, qs, hq, -, e⟩ | ⟨q, qs, hq, -, e⟩ <;> rw [e] at h
      · cases bs <;> cases h
      · obtain ⟨rfl, rfl⟩ := List.cons.inj h
        rw [ih (before := q :: bs) hq]
        simp only [List.flatMap_cons, List.length_append, List.length_cons]
        omega
      · obtain ⟨rfl, hbs⟩ := List.cons.inj h
        rw [ih (before := bs) (hq.trans hbs)]
        simp only [List.flatMap_cons, List.length_append, List.length_cons, List.length_nil]
        omega

/-- Neighbouring portions lie on different buffers. -/
theorem State.portions_neighbours {s : State} {a : Nat} {lanes : List Lane} {before after : List Portion}
    {p q : Portion} (h : s.portions a lanes = before ++ p :: q :: after) : p.target ≠ q.target := by
  induction lanes generalizing a before p with
  | nil => cases before <;> cases h
  | cons l rest ih =>
    rcases s.portions_cons a l rest with ⟨-, e⟩ | ⟨b, bs, hb, -, e⟩ | ⟨b, bs, hb, hne, e⟩ <;> rw [e] at h
    · cases before with
      | nil => cases h
      | cons c cs => cases cs <;> cases h
    · cases before with
      | nil =>
        obtain ⟨rfl, rfl⟩ := List.cons.inj h
        exact ih (before := []) (p := b) hb
      | cons c cs =>
        obtain ⟨-, rfl⟩ := List.cons.inj h
        exact ih (before := b :: cs) hb
    · cases before with
      | nil =>
        obtain ⟨rfl, hq⟩ := List.cons.inj h
        obtain ⟨rfl, -⟩ := List.cons.inj hq
        exact Ne.symm hne
      | cons c cs =>
        obtain ⟨-, hcs⟩ := List.cons.inj h
        exact ih (before := cs) (hb.trans hcs)

/-- Bytes that all lie in one place are one portion. -/
theorem State.portions_single {s : State} {a : Nat} {lanes : List Lane} {target : Option BufferRef} (hne : lanes ≠ [])
    (h : ∀ i : Nat, i < lanes.length → s.locate (a + i) = target) : s.portions a lanes = [⟨a, target, lanes⟩] := by
  induction lanes generalizing a with
  | nil => contradiction
  | cons l rest ih =>
    have h0 : s.locate a = target := h 0 (by simp)
    cases rest with
    | nil => simp [State.portions, h0]
    | cons l' rest =>
      have htail := ih (a := a + 1) (by simp) fun i hi => by
        have := h (i + 1) (by simpa using hi)
        rwa [Nat.add_right_comm, Nat.add_assoc]
      rw [State.portions, htail]
      simp [h0]

/-! ### Frame tracking keeps the table well formed (R21 to R25) -/

theorem FrameRecord.wf_started {fr : FrameRecord} {d : SurfaceDef} {k : BufferId} {hi : Nat} {now : ClockValue}
    (hh : hi < d.height) (hk : k.val < d.bufferCount) (hv : now.valid = true) :
    (fr.started k hi now).wf d = true := by
  simp [FrameRecord.started, FrameRecord.wf, hh, hk, hv]

theorem FrameRecord.wf_raised {fr : FrameRecord} {d : SurfaceDef} (h : fr.wf d = true) (hb : fr.currentBuffer ≠ none)
    {hi : Nat} (hh : hi < d.height) : ({ fr with highWater := max fr.highWater hi } : FrameRecord).wf d = true := by
  obtain ⟨buffer, water, number, time⟩ := fr
  cases buffer with
  | none => contradiction
  | some k =>
    cases time with
    | none => simp [FrameRecord.wf] at h
    | some v =>
      simp only [FrameRecord.wf, Bool.and_eq_true, decide_eq_true_eq] at h ⊢
      exact ⟨by omega, h.2⟩

theorem State.TableWf.moves_withFrame {s : State} (h : s.TableWf) {n : SurfaceId} {d : SurfaceDef}
    (hr : (s.surf n).drawing = true) (hd : (s.surf n).defn = some d) {fr : FrameRecord} (hf : fr.wf d = true) :
    s.TableMoves (s.setSurf n ((s.surf n).withFrame fr)) :=
  h.moves (s.tableAfter_setSurf n _) rfl (Surface.wf_withFrame (h.2 n) hr hd hf) fun hx => ⟨hx, rfl⟩

theorem State.TableWf.moves_commitAtStart {s : State} (h : s.TableWf) (n : SurfaceId) :
    s.TableMoves (s.commitAtStart n) := by
  unfold State.commitAtStart
  split
  · rename_i hc
    have ha := h.moves_applyCommit hc.1
    exact ha.trans (ha.1.moves_post _)
  · exact h.refl

theorem State.TableWf.moves_noticeAtStart {s : State} (h : s.TableWf) (n : SurfaceId) (d : SurfaceDef) (k : BufferId) :
    s.TableMoves (s.noticeAtStart n d k) := by
  unfold State.noticeAtStart
  split
  · exact h.moves_post _
  · exact h.refl

theorem State.TableWf.moves_startFrame {s : State} (h : s.TableWf) {n : SurfaceId} {d : SurfaceDef}
    (hr : (s.surf n).drawing = true) (hd : (s.surf n).defn = some d) {k : BufferId} {hi : Nat}
    (hk : k.val < d.bufferCount) (hh : hi < d.height) : s.TableMoves (s.startFrame n d k hi) := by
  have hbegun : s.TableMoves (s.beginFrame n k hi) := h.moves_withFrame hr hd (FrameRecord.wf_started hh hk h.1)
  unfold State.startFrame
  dsimp only
  split
  · exact hbegun.trans (hbegun.1.moves_completeRetirement ‹_› false)
  · have hcommit := hbegun.1.moves_commitAtStart n
    exact (hbegun.trans hcommit).trans (hcommit.1.moves_noticeAtStart n d k)

theorem State.TableWf.moves_continueFrame {s : State} (h : s.TableWf) {n : SurfaceId} {d : SurfaceDef}
    (hr : (s.surf n).drawing = true) (hd : (s.surf n).defn = some d) {hi : Nat}
    (hb : (s.surf n).frame.currentBuffer ≠ none) (hh : hi < d.height) : s.TableMoves (s.continueFrame n hi) :=
  h.moves_withFrame hr hd (FrameRecord.wf_raised (Surface.wf_drawing (h.2 n) hr hd).2 hb hh)

theorem SurfaceDef.pitch_pos {d : SurfaceDef} (h : d.legal = true) : 0 < d.pitch := by
  obtain ⟨hr, -, -⟩ := d.legal_iff.mp h
  obtain ⟨-, -, hp, -⟩ := d.rangesOk_iff.mp hr
  omega

/-- A portion that was located on a buffer of the definition `d` lies wholly within it. -/
theorem Portion.Located.within {s : State} {p : Portion} (hp : p.Located s) {ref : BufferRef} {d : SurfaceDef}
    (ht : p.target = some ref) (hd : (s.surf ref.surface).defn = some d) :
    ref.buffer.val < d.bufferCount ∧ d.bufferStart ref.buffer.val ≤ p.start ∧
      p.start + p.lanes.length ≤ d.bufferStart ref.buffer.val + d.bufferSize := by
  have hpos : 0 < p.lanes.length := List.length_pos_iff.mpr hp.1
  have holds : ∀ i, i < p.lanes.length → d.Holds ref.buffer (p.start + i) := by
    intro i hi
    obtain ⟨-, e, he, hb⟩ := Surface.bufferAt_eq_some (State.bufferAt_of_locate ((hp.2 i hi).trans ht))
    obtain rfl : d = e := Option.some.inj (hd.symm.trans he)
    exact SurfaceDef.holds_of_bufferAt hb
  obtain ⟨h1, h2, -⟩ := holds 0 hpos
  obtain ⟨-, -, h3⟩ := holds (p.lanes.length - 1) (by omega)
  exact ⟨h1, h2, by omega⟩

theorem Portion.highRow_lt {p : Portion} {d : SurfaceDef} {k : BufferId} (hne : p.lanes ≠ []) (hpitch : 0 < d.pitch)
    (h1 : d.bufferStart k.val ≤ p.start) (h2 : p.start + p.lanes.length ≤ d.bufferStart k.val + d.bufferSize) :
    p.highRow d k < d.height := by
  have hpos : 0 < p.lanes.length := List.length_pos_iff.mpr hne
  rw [Portion.highRow, Portion.offset, Nat.div_lt_iff_lt_mul hpitch, Nat.mul_comm d.height]
  simp only [SurfaceDef.bufferStart, SurfaceDef.bufferSize] at *
  omega

/-- The handling of a portion, cut against the table of `s₀`, in a state that came from it. -/
theorem State.TableMoves.handlePortion {s₀ s : State} (h : s₀.TableMoves s) {p : Portion} (hp : p.Located s₀) :
    s.TableMoves (s.handlePortion p).1 := by
  cases ht : s.trackedOn p with
  | none => rw [State.handlePortion_untracked ht]; exact h.1.refl
  | some out =>
    obtain ⟨⟨n, k⟩, d⟩ := out
    have htracks := State.tracks_of_trackedOn ht
    rw [State.handlePortion_tracked htracks]
    obtain ⟨htarget, hd, hs, -⟩ := htracks
    have hr : (s.surf n).drawing = true := (Surface.drawing_iff _).mpr hs
    have hlegal := (Surface.wf_common (h.1.2 n) (Surface.ne_vacant_of_drawing hr) hd).1
    obtain ⟨hk, h1, h2⟩ := hp.within htarget ((h.2 n hr).2.symm.trans hd)
    have hrow : p.highRow d k < d.height := Portion.highRow_lt hp.1 (SurfaceDef.pitch_pos hlegal) h1 h2
    rcases s.trackPortion_cases n d k (p.lowRow d k) (p.highRow d k) with ⟨-, e⟩ | ⟨hns, e⟩ <;> simp only [e]
    · exact h.1.moves_startFrame hr hd hk hrow
    · exact h.1.moves_continueFrame hr hd (fun hb => hns (.inl hb)) hrow

theorem State.TableMoves.handlePortions {s₀ s : State} (h : s₀.TableMoves s) {ps : List Portion}
    (hp : ∀ p ∈ ps, p.Located s₀) : s₀.TableMoves (s.handlePortions ps).1 := by
  induction ps generalizing s with
  | nil => exact h
  | cons p ps ih =>
    obtain ⟨hfirst, hrest⟩ := List.forall_mem_cons.mp hp
    exact ih (h.trans (h.handlePortion hfirst)) hrest

theorem State.TableWf.moves_classifyWrite {s : State} (h : s.TableWf) (w : WriteRequest) :
    s.TableMoves (s.classifyWrite w).1 :=
  h.refl.handlePortions (s.portions_located w.addr.toNat w.lanes)

/-! ### The pass-through unit leaves the table alone, but for the taking of a write -/

theorem State.TableWf.moves_oweAnswer {s : State} (h : s.TableWf) (t : Tag) (a : AnswerStatus) :
    s.TableMoves (s.oweAnswer t a) := by
  rcases s.oweAnswer_cases t a with ⟨-, e⟩ | ⟨-, e⟩ <;> rw [e] <;> exact h.stays rfl rfl

theorem State.TableWf.moves_answerOne {s : State} (h : s.TableWf) (t : Tag) : s.TableMoves (s.answerOne t) := by
  rcases s.answerOne_cases t with ⟨-, e⟩ | ⟨_, _, _, -, -, e⟩ <;> rw [e] <;> exact h.stays rfl rfl

theorem State.TableWf.moves_releaseOne {s : State} (h : s.TableWf) : s.TableMoves s.releaseOne := by
  rcases s.releaseOne_cases with ⟨-, e⟩ | ⟨_, _, -, -, e⟩ <;> rw [e] <;> exact h.stays rfl rfl

theorem State.TableWf.moves_issueOne {s : State} (h : s.TableWf) : s.TableMoves s.issueOne := by
  rcases s.issueOne_cases with ⟨-, e⟩ | ⟨_, _, _, -, -, -, -, -, e⟩ <;> rw [e] <;> exact h.stays rfl rfl

theorem State.TableWf.moves_advance {s : State} (h : s.TableWf) : s.TableMoves s.advance :=
  State.advance_keeps (P := s.TableMoves) (fun _ hu => hu.trans hu.1.moves_releaseOne)
    (fun _ hu => hu.trans hu.1.moves_issueOne) s h.refl

theorem State.TableWf.moves_answerReady {s : State} (h : s.TableWf) (t : Tag) : s.TableMoves (s.answerReady t) :=
  repeatStep_keeps (P := s.TableMoves) (fun _ hu => hu.trans (hu.1.moves_answerOne t)) _ s h.refl

theorem State.TableWf.moves_takeMalformed {s : State} (h : s.TableWf) (a : Address) (len : Nat) (t : Tag) :
    s.TableMoves (s.takeMalformed a len t) := by
  have hp := h.moves_post (.malformed a len t)
  exact hp.trans (hp.1.moves_oweAnswer t .fault)

theorem State.TableWf.moves_enqueueWrite {s : State} (h : s.TableWf) (w : WriteRequest) :
    s.TableMoves (s.enqueueWrite w) := by
  have hc := h.moves_classifyWrite w
  have hq : (s.classifyWrite w).1.TableMoves
      { (s.classifyWrite w).1 with
        queue := (s.classifyWrite w).1.queue ++
          [⟨(s.classifyWrite w).1.nextSeq, w.addr, (s.classifyWrite w).2.lanes, w.tag, (s.classifyWrite w).2.owner,
            .queued⟩]
        nextSeq := (s.classifyWrite w).1.nextSeq + 1 } := hc.1.stays rfl rfl
  exact (hc.trans hq).trans (hq.1.moves_oweAnswer w.tag .posted)

theorem State.TableWf.moves_acceptRead {s : State} (h : s.TableWf) (r : ReadRequest) :
    s.TableMoves (s.acceptRead r) := by
  unfold State.acceptRead
  split <;> exact h.stays rfl rfl

theorem State.TableWf.moves_takeRequest {s : State} (h : s.TableWf) (q : UpstreamRequest) :
    s.TableMoves (s.takeRequest q) := by
  cases q with
  | write w =>
    rw [State.takeRequest]
    split
    · exact h.moves_takeMalformed ..
    · split
      · exact h.moves_enqueueWrite w
      · exact h.moves_oweAnswer ..
  | read r =>
    rw [State.takeRequest]
    split
    · exact h.moves_takeMalformed ..
    · exact h.moves_acceptRead r

theorem State.TableWf.moves_settle {s : State} (h : s.TableWf) : s.TableMoves s.settle :=
  State.takeWaiting_keeps (P := s.TableMoves) (fun _ hu => hu.trans hu.1.moves_advance)
    (fun _ q hu _ => hu.trans (hu.1.moves_takeRequest q)) (fun _ _ hu => hu.trans (hu.1.stays rfl rfl)) _ _
    h.moves_advance

theorem State.TableWf.moves_arrive {s : State} (h : s.TableWf) (q : UpstreamRequest) : s.TableMoves (s.arrive q) := by
  have hw : s.TableMoves { s with upstream := s.upstream ++ [q] } := h.stays rfl rfl
  unfold State.arrive
  dsimp only
  split
  · exact hw
  · exact hw.trans hw.1.moves_settle

theorem State.TableWf.moves_completeHead {s : State} (h : s.TableWf) (st : CompletionStatus) :
    s.TableMoves (s.completeHead st) := by
  rcases s.completeHead_cases st with ⟨-, e⟩ | ⟨_, _, -, -, e⟩ <;> rw [e] <;> exact h.stays rfl rfl

theorem State.TableWf.moves_meetDrain {s : State} (h : s.TableWf) : s.TableMoves s.meetDrain := by
  rcases s.meetDrain_cases with ⟨-, e⟩ | ⟨_, -, -, e⟩ <;> rw [e] <;> exact h.stays rfl rfl

theorem State.TableWf.moves_respond {s : State} (h : s.TableWf) (t : Tag) (ret : ReadReturn) :
    s.TableMoves (s.respond t ret) := by
  unfold State.respond
  split <;> exact h.stays rfl rfl

end Sys2Proof.Machine
end

section
/-! Every row of the table keeps the surface table well formed; ACTIVATE SURFACE alone makes a surface draw, after its
check against overlap. -/

namespace Sys2Proof.Machine

/-! ### The bodies of the commands -/

/-- A command body keeps the surface table well formed and brings nothing new to draw. -/
def KeepsTable (body : State → Reply × State) : Prop := ∀ u : State, u.TableWf → u.TableMoves (body u).2

/-- What a transaction leaves: nothing changed, or the state that the command left, concluded. -/
theorem runCommand_cases {number : Byte} {f : CommandFrame} {ok : Bool} {body : State → Reply × State} {s t : State}
    (h : runCommand number f ok body s = .next t) :
    t = s ∨ (∃ r, t = (s.receive (frameBytes number f)).conclude f.tail r) ∨
      ∃ r, t = (body (s.receive (frameBytes number f))).2.conclude f.tail r := by
  unfold runCommand at h
  split at h
  · cases h; exact .inl rfl
  · cases ok <;> cases h
    · exact .inr (.inl ⟨_, rfl⟩)
    · exact .inr (.inr ⟨_, rfl⟩)

theorem State.TableWf.moves_receive {s : State} (h : s.TableWf) (bytes : List Byte) : s.TableMoves (s.receive bytes) :=
  h.stays rfl rfl

theorem State.TableWf.moves_conclude {s : State} (h : s.TableWf) (tail : List Bool) (r : LastResult) :
    s.TableMoves (s.conclude tail r) := h.stays rfl rfl

theorem State.TableWf.moves_runCommand {s t : State} (h : s.TableWf) {number : Byte} {f : CommandFrame} {ok : Bool}
    {body : State → Reply × State} (hb : KeepsTable body) (ht : runCommand number f ok body s = .next t) :
    s.TableMoves t := by
  have hr := h.moves_receive (frameBytes number f)
  rcases runCommand_cases ht with rfl | ⟨r, rfl⟩ | ⟨r, rfl⟩
  · exact h.refl
  · exact hr.trans (hr.1.moves_conclude _ _)
  · have hbody := hr.trans (hb _ hr.1)
    exact hbody.trans (hbody.1.moves_conclude _ _)

theorem keepsTable_onSurface {f : CommandFrame} {body : SurfaceId → State → Reply × State}
    (h : ∀ n, KeepsTable (body n)) : KeepsTable (onSurface f body) := by
  intro u hu
  unfold onSurface
  split
  · exact hu.refl
  · exact h _ u hu

/-- A body that keeps the table on surfaces that take staging commands (R47). -/
theorem keepsTable_onStaging {f : CommandFrame} {body : SurfaceId → State → Reply × State}
    (h : ∀ (n : SurfaceId) (u : State), u.TableWf → (u.surf n).state ≠ .vacant → u.TableMoves (body n u).2) :
    KeepsTable (onStaging f body) := by
  rw [onStaging_eq]
  refine keepsTable_onSurface fun n u hu => ?_
  unfold guardStaging
  split
  · exact hu.refl
  · rename_i hr
    refine h n u hu fun hv => ?_
    simp [Surface.stagingRefusal, hv] at hr

/-- One record takes another staged list and page. -/
theorem State.TableWf.moves_withStaged {s t : State} (h : s.TableWf) {n : SurfaceId} (hv : (s.surf n).state ≠ .vacant)
    {items : List Item} (hi : items.length ≤ 16) {p : Option Page} (hp : p.isSome = true)
    (ht : s.TableAfter t n ((s.surf n).withStaged items p)) (hc : t.clock = s.clock) : s.TableMoves t :=
  h.moves ht hc (Surface.wf_withStaged (h.2 n) hv hi hp) fun hx => ⟨hx, rfl⟩

/-- A non-VACANT record has at most 16 staged items and a staged page. -/
theorem State.TableWf.staged {s : State} (h : s.TableWf) {n : SurfaceId} (hv : (s.surf n).state ≠ .vacant) :
    (s.surf n).staged.length ≤ 16 ∧ (s.surf n).active.length ≤ 16 ∧ (s.surf n).stagedPage.isSome = true := by
  obtain ⟨d, hd⟩ := Surface.exists_defn (h.2 n) hv
  exact (Surface.wf_common (h.2 n) hv hd).2

/-- The staged list of a surface is replaced in a state with the same surfaces. -/
theorem State.setStaged_tableAfter {s t : State} (hs : t.surfaces = s.surfaces) (n : SurfaceId) (items : List Item) :
    s.TableAfter (t.setStaged n items) n ((s.surf n).withStaged items (s.surf n).stagedPage) := by
  have h : t.TableAfter (t.setStaged n items) n ((t.surf n).withStaged items (t.surf n).stagedPage) :=
    t.tableAfter_setSurf n _
  obtain ⟨hn, hm⟩ := h
  rw [State.surf_congr hs n] at hn
  exact ⟨hn, fun m hne => (hm m hne).trans (State.surf_congr hs m)⟩

theorem State.TableWf.moves_setStaged {s t : State} (h : s.TableWf) {n : SurfaceId} (hv : (s.surf n).state ≠ .vacant)
    (hs : t.surfaces = s.surfaces) (hc : t.clock = s.clock) {items : List Item} (hi : items.length ≤ 16) :
    s.TableMoves (t.setStaged n items) :=
  h.moves_withStaged hv hi (h.staged hv).2.2 (State.setStaged_tableAfter hs n items) hc

theorem keepsTable_defineSurface (f : CommandFrame) (n : SurfaceId) : KeepsTable (defineSurface f n) := by
  intro u hu
  unfold defineSurface
  split
  · exact hu.refl
  · exact hu.refl
  · split
    · exact hu.refl
    · rename_i d hd
      exact hu.moves (u.tableAfter_setSurf n _) rfl (Surface.wf_newlyDefined (surfaceDefOf_legal hd)) nofun
  · rename_i hs
    split
    · exact hu.refl
    · rename_i d hd
      refine hu.moves (u.tableAfter_setSurf n _) rfl (Surface.wf_redefined (hu.2 n) hs (surfaceDefOf_legal hd)) ?_
      intro hx
      rw [Surface.not_drawing_of_defined (by exact hs)] at hx
      cases hx

theorem keepsTable_retireSurface (n : SurfaceId) : KeepsTable (retireSurface n) := by
  intro u hu
  unfold retireSurface
  split
  · rename_i hs
    exact hu.moves (u.tableAfter_setSurf n _) rfl (Surface.wf_beginRetirement (hu.2 n) hs)
      fun _ => ⟨Surface.drawing_of_live hs, rfl⟩
  · exact hu.refl

theorem State.releaseSurface_tableAfter (s : State) (n : SurfaceId) :
    s.TableAfter ((s.freeItems (s.surf n).staged).setSurf n .vacant) n .vacant := by
  obtain ⟨h1, h2⟩ := (s.freeItems (s.surf n).staged).tableAfter_setSurf n .vacant
  exact ⟨h1, fun m hm => (h2 m hm).trans (by simp)⟩

theorem keepsTable_releaseSurface (n : SurfaceId) : KeepsTable (releaseSurface n) := by
  intro u hu
  unfold releaseSurface
  split
  · exact hu.moves (u.releaseSurface_tableAfter n) (by simp) rfl nofun
  · exact hu.refl

theorem keepsTable_readSurface (n : SurfaceId) : KeepsTable (readSurface n) := fun _ hu => hu.refl

theorem keepsTable_addItem (f : CommandFrame) : KeepsTable (onStaging f (addItem f)) := by
  refine keepsTable_onStaging fun n u hu hv => ?_
  unfold addItem
  split
  · exact hu.refl
  · split
    · exact hu.refl
    · split
      · exact hu.refl
      · rename_i hroom
        split
        · exact hu.refl
        · refine hu.moves_setStaged hv (by simp) (by simp) ?_
          simp only [Config.listCapacity] at hroom
          simp only [List.length_append, List.length_cons, List.length_nil]
          omega

theorem keepsTable_setItem (f : CommandFrame) : KeepsTable (onStaging f (setItem f)) := by
  refine keepsTable_onStaging fun n u hu hv => ?_
  unfold setItem
  split
  · split
    · exact hu.refl
    · exact hu.moves_setStaged hv (by simp) (by simp) (by simpa using (hu.staged hv).1)
  · exact hu.refl

theorem keepsTable_removeItem (f : CommandFrame) : KeepsTable (onStaging f (removeItem f)) := by
  refine keepsTable_onStaging fun n u hu hv => ?_
  unfold removeItem
  split
  · exact hu.refl
  · exact hu.moves_setStaged hv (by simp) (by simp) ((List.length_eraseIdx_le _ _).trans (hu.staged hv).1)

theorem length_moved {items : List Item} {i j : Nat} {it : Item} (hi : items[i]? = some it) (hj : j < items.length) :
    ((items.eraseIdx i).insertIdx j it).length = items.length := by
  have hlt : i < items.length := (List.getElem?_eq_some_iff.mp hi).1
  have hlen : (items.eraseIdx i).length = items.length - 1 := List.length_eraseIdx_of_lt hlt
  rw [List.length_insertIdx_of_le_length (by omega)]
  omega

theorem keepsTable_moveItem (f : CommandFrame) : KeepsTable (onStaging f (moveItem f)) := by
  refine keepsTable_onStaging fun n u hu hv => ?_
  unfold moveItem
  dsimp only
  split
  · exact hu.refl
  · rename_i hi
    split
    · rename_i hj
      exact hu.moves_setStaged hv rfl rfl ((length_moved hi hj).le.trans (hu.staged hv).1)
    · exact hu.refl

theorem keepsTable_clearStaged (f : CommandFrame) : KeepsTable (onStaging f clearStaged) :=
  keepsTable_onStaging fun _ _ hu hv => hu.moves_setStaged hv (by simp) (by simp) (by simp)

theorem keepsTable_cloneActive (f : CommandFrame) : KeepsTable (onStaging f cloneActive) := by
  refine keepsTable_onStaging fun n u hu hv => ?_
  unfold cloneActive
  dsimp only
  split
  · rename_i hs
    split
    · exact hu.refl
    · obtain ⟨d, hd⟩ := Surface.exists_defn (hu.2 n) hv
      have hpage := (Surface.wf_drawing (hu.2 n) (Surface.drawing_of_live hs) hd).1
      refine hu.moves_withStaged hv (hu.staged hv).2.1 hpage ⟨State.surf_setSurf_same _ n _, fun m hm => ?_⟩ (by simp)
      rw [State.surf_setSurf_ne _ _ _ _ hm.symm]
      simp
  · exact hu.refl

theorem keepsTable_selectPage (f : CommandFrame) : KeepsTable (onStaging f (selectPage f)) := by
  refine keepsTable_onStaging fun n u hu hv => ?_
  unfold selectPage
  split
  · exact hu.refl
  · exact hu.moves_withStaged hv (hu.staged hv).1 rfl (u.tableAfter_setSurf n _) rfl

theorem keepsTable_readItem (f : CommandFrame) (n : SurfaceId) : KeepsTable (readItem f n) := by
  intro u hu
  unfold readItem
  split
  · exact hu.refl
  · split
    · exact hu.refl
    · split <;> exact hu.refl

theorem keepsTable_commit (n : SurfaceId) : KeepsTable (commit n) := by
  intro u hu
  unfold commit
  dsimp only
  split
  · rename_i hs
    split
    · exact hu.refl
    · exact hu.moves (u.tableAfter_setSurf n _) rfl (Surface.wf_withCommit (hu.2 n) hs) fun hx => ⟨hx, rfl⟩
  · exact hu.refl

theorem keepsTable_cancelCommit (n : SurfaceId) : KeepsTable (cancelCommit n) := by
  intro u hu
  unfold cancelCommit
  dsimp only
  split
  · rename_i hs
    split
    · exact hu.moves (u.tableAfter_setSurf n _) rfl (Surface.wf_withoutCommit (hu.2 n) hs) fun hx => ⟨hx, rfl⟩
    · exact hu.refl
  · exact hu.refl

/-- A body that leaves the surfaces and the clock as they are. -/
theorem keepsTable_of_untouched {body : State → Reply × State}
    (h : ∀ u, (body u).2.surfaces = u.surfaces ∧ (body u).2.clock = u.clock) : KeepsTable body :=
  fun u hu => hu.stays (h u).1 (h u).2

theorem keepsTable_writeGlyph (f : CommandFrame) : KeepsTable (writeGlyph f) := by
  refine keepsTable_of_untouched fun u => ?_
  unfold writeGlyph
  split
  · split <;> simp
  · simp

theorem keepsTable_writePageHeader (f : CommandFrame) : KeepsTable (writePageHeader f) := by
  refine keepsTable_of_untouched fun u => ?_
  unfold writePageHeader
  split
  · split <;> simp
  · simp

theorem keepsTable_readGlyph (f : CommandFrame) : KeepsTable (readGlyph f) := by
  refine keepsTable_of_untouched fun u => ?_
  unfold readGlyph
  split <;> simp

theorem keepsTable_writeString (f : CommandFrame) : KeepsTable (writeString f) := by
  refine keepsTable_of_untouched fun u => ?_
  unfold writeString
  split
  · simp
  · split
    · simp
    · split <;> simp

theorem keepsTable_readString (f : CommandFrame) : KeepsTable (readString f) := by
  refine keepsTable_of_untouched fun u => ?_
  unfold readString
  split <;> simp

theorem keepsTable_setClock (f : CommandFrame) : KeepsTable (setClock f) := by
  intro u hu
  unfold setClock
  split
  · exact hu.refl
  · rename_i v hv
    exact hu.movesTo (fun _ => rfl) (clockOf_valid hv)

theorem keepsTable_holdClock : KeepsTable holdClock := keepsTable_of_untouched fun _ => ⟨rfl, rfl⟩

theorem keepsTable_adjustClock (f : CommandFrame) : KeepsTable (adjustClock f) := by
  intro u hu
  unfold adjustClock
  split
  · exact hu.refl
  · rename_i a ha
    obtain ⟨hl, hr⟩ := amountOf_range ha
    split
    · rename_i hin
      have hfields := ((ClockValue.valid_iff _).mp hu.1).2.adjusted hl hr
      exact hu.movesTo (fun _ => rfl) ((ClockValue.valid_iff _).mpr ⟨hin, hfields⟩)
    · exact hu.refl

theorem keepsTable_readClock : KeepsTable readClock := fun _ hu => hu.refl

theorem keepsTable_setBypass (f : CommandFrame) : KeepsTable (setBypass f) := by
  refine keepsTable_of_untouched fun u => ?_
  unfold setBypass
  split
  · simp
  · split <;> simp

theorem keepsTable_takeDrain (f : CommandFrame) : KeepsTable (takeDrain f) := by
  refine keepsTable_of_untouched fun u => ?_
  unfold takeDrain
  split
  · simp
  · split <;> simp

theorem keepsTable_readStatus : KeepsTable readStatus := fun _ hu => hu.refl

theorem keepsTable_nextNotice : KeepsTable nextNotice := by
  refine keepsTable_of_untouched fun u => ?_
  unfold nextNotice
  split <;> simp

theorem State.surf_of_replicate_vacant {s : State} (h : s.surfaces = Vector.replicate 8 .vacant) (n : SurfaceId) :
    s.surf n = .vacant := by
  simp [State.surf, h]

theorem keepsTable_softReset : KeepsTable fun s => (Reply.done, s.softReset) :=
  fun _ hu => State.tableMoves_of_vacant (State.surf_of_replicate_vacant rfl) hu.1

/-! ### ACTIVATE SURFACE (R10 to R12) -/

/-- No other surface blocks the activation: none overlaps the definition (R11). -/
theorem State.overlapping_eq_none {s : State} {n : SurfaceId} {d : SurfaceDef} :
    s.overlapping n d = none ↔ ∀ m : SurfaceId, m ≠ n → ¬s.OverlapsWith d m := by
  rw [State.overlapping, List.find?_eq_none]
  simp only [Bool.and_eq_true, bne_iff_ne, State.blocks_iff_overlapsWith, not_and]
  exact ⟨fun h m hm => h m (mem_surfaceIds m) hm, fun h m _ hm => h m hm⟩

theorem activateSurface_keeps (n : SurfaceId) (u : State) (h : u.TableWf) (hd : u.RangesDisjoint) :
    (activateSurface n u).2.TableWf ∧ (activateSurface n u).2.RangesDisjoint := by
  unfold activateSurface
  split
  case isFalse => exact ⟨h, hd⟩
  case isTrue hs =>
  split
  · exact ⟨h, hd⟩
  · rename_i hb
    obtain ⟨d, hdn⟩ := Surface.exists_defn (h.2 n) (by simp [hs])
    have hfree : ∀ m : SurfaceId, m ≠ n → ¬u.OverlapsWith d m := by
      rw [State.blocker, hdn, Option.bind_some] at hb
      exact State.overlapping_eq_none.mp hb
    have hclear : ∀ m e, m ≠ n → (u.surf m).drawing = true → (u.surf m).defn = some e → ¬d.Overlap e :=
      fun m e hm hr he ho => hfree m hm ⟨(Surface.drawing_iff _).mp hr, e, he, ho⟩
    refine ⟨⟨h.1, fun m => ?_⟩, (State.rangesDisjoint_iff _).mpr fun i j hij hi hj a b ha hb' => ?_⟩
    · show ((u.setSurf n (u.surf n).activated).surf m).wf = true
      rw [State.surf_setSurf]
      split
      · exact Surface.wf_activated (h.2 n) hs
      · exact h.2 m
    · change ((u.setSurf n (u.surf n).activated).surf i).drawing = true at hi
      change ((u.setSurf n (u.surf n).activated).surf j).drawing = true at hj
      change ((u.setSurf n (u.surf n).activated).surf i).defn = some a at ha
      change ((u.setSurf n (u.surf n).activated).surf j).defn = some b at hb'
      rw [State.surf_setSurf] at hi hj ha hb'
      by_cases hin : n = i
      · subst hin
        rw [if_neg hij] at hj hb'
        rw [if_pos rfl] at ha
        obtain rfl : d = a := Option.some.inj (hdn.symm.trans ha)
        exact hclear j b (Ne.symm hij) hj hb'
      · rw [if_neg hin] at hi ha
        by_cases hjn : n = j
        · subst hjn
          rw [if_pos rfl] at hb'
          obtain rfl : d = b := Option.some.inj (hdn.symm.trans hb')
          exact fun ho => hclear i a hij hi ha ho.symm
        · rw [if_neg hjn] at hj hb'
          exact (State.rangesDisjoint_iff u).mp hd i j hij hi hj a b ha hb'

theorem execActivateSurface_keeps {s t : State} {f : CommandFrame} (h : s.TableWf) (hd : s.RangesDisjoint)
    (ht : execActivateSurface f s = .next t) : t.TableWf ∧ t.RangesDisjoint := by
  have hr := h.moves_receive (frameBytes 0x11 f)
  have hrd := hr.rangesDisjoint hd
  rcases runCommand_cases ht with rfl | ⟨r, rfl⟩ | ⟨r, rfl⟩
  · exact ⟨h, hd⟩
  · have hm := hr.1.moves_conclude f.tail r
    exact ⟨hm.1, hm.rangesDisjoint hrd⟩
  · have hbody : (onSurface f activateSurface (s.receive (frameBytes 0x11 f))).2.TableWf ∧
        (onSurface f activateSurface (s.receive (frameBytes 0x11 f))).2.RangesDisjoint := by
      unfold onSurface
      split
      · exact ⟨hr.1, hrd⟩
      · exact activateSurface_keeps _ _ hr.1 hrd
    have hm := hbody.1.moves_conclude f.tail r
    exact ⟨hm.1, hm.rangesDisjoint hbody.2⟩

/-! ### Every row -/

/-- An event that is not taken while RESETN is asserted. -/
theorem State.TableWf.moves_unlessReset {s t u : State} (h : s.TableWf) (hu : s.TableMoves u)
    (ht : (if s.resetAsserted = true then .next s else .next u : Host.Outcome State Fault Refusal) = .next t) :
    s.TableMoves t := by
  split at ht <;> cases ht
  · exact h.refl
  · exact hu

theorem State.TableWf.moves_execNop {s t : State} (h : s.TableWf) {f : CommandFrame} (ht : execNop f s = .next t) :
    s.TableMoves t := by
  have hr := h.moves_receive (frameBytes 0x00 f)
  unfold execNop at ht
  dsimp only at ht
  split at ht
  · cases ht; exact h.refl
  · split at ht <;> cases ht <;> exact hr.trans (hr.1.moves_conclude _ _)

theorem State.TableWf.moves_execBadFrame {s t : State} (h : s.TableWf) {raw : RawTransaction}
    (ht : execBadFrame raw s = .next t) : s.TableMoves t := by
  unfold execBadFrame at ht
  split at ht
  · cases ht; exact h.refl
  · split at ht <;> cases ht <;>
      exact (h.moves_receive _).trans ((h.moves_receive _).1.moves_conclude _ _)

theorem State.TableWf.moves_execBadCommand {s t : State} (h : s.TableWf) {number : Byte} {f : CommandFrame}
    (ht : execBadCommand number f s = .next t) : s.TableMoves t := by
  have hr := h.moves_receive (frameBytes number f)
  exact h.moves_unlessReset (hr.trans (hr.1.moves_conclude _ _)) ht

theorem State.TableWf.moves_execHardReset {s t : State} {received : Option (List Byte)}
    (ht : execHardReset received s = .next t) : s.TableMoves t := by
  cases ht
  exact State.tableMoves_of_vacant (State.surf_of_replicate_vacant rfl) (show ClockValue.first.valid = true by decide)

theorem State.TableWf.moves_execResetnRelease {s t : State} (h : s.TableWf) {csnLow : Bool}
    (ht : execResetnRelease csnLow s = .next t) : s.TableMoves t := by
  have hr : s.TableMoves { s with resetAsserted := false, linkAbandoned := csnLow } := h.stays rfl rfl
  unfold execResetnRelease at ht
  split at ht <;> cases ht
  · exact hr.trans hr.1.moves_settle
  · exact h.refl

theorem State.TableWf.moves_execTick {s t : State} (h : s.TableWf) (ht : execTick s = .next t) : s.TableMoves t :=
  h.moves_unlessReset (h.moves_tickClock.trans (h.moves_tickClock.1.moves_tickSurfaces surfaceIds)) ht

theorem State.TableWf.moves_execWriteCompletion {s t : State} (h : s.TableWf) {st : CompletionStatus}
    (ht : execWriteCompletion st s = .next t) : s.TableMoves t := by
  have h1 := h.moves_completeHead st
  have h2 := h1.trans h1.1.moves_meetDrain
  exact h.moves_unlessReset (h2.trans h2.1.moves_settle) ht

theorem State.TableWf.moves_execReadResponse {s t : State} (h : s.TableWf) {tag : Tag} {ret : ReadReturn}
    (ht : execReadResponse tag ret s = .next t) : s.TableMoves t := by
  have h1 := h.moves_respond tag ret
  have h2 := h1.trans (h1.1.moves_answerReady tag)
  exact h.moves_unlessReset (h2.trans h2.1.moves_settle) ht

/-- Every row but ACTIVATE SURFACE keeps the table well formed and brings nothing new to draw. -/
theorem State.TableWf.moves_exec {s t : State} (h : s.TableWf) {c : Instr} (hc : ∀ f, c ≠ .activateSurface f)
    (ht : exec c s = .next t) : s.TableMoves t := by
  cases c with
  | nop f => exact h.moves_execNop ht
  | softReset f => exact h.moves_runCommand keepsTable_softReset ht
  | defineSurface f => exact h.moves_runCommand (keepsTable_onSurface (keepsTable_defineSurface f)) ht
  | activateSurface f => exact absurd rfl (hc f)
  | retireSurface f => exact h.moves_runCommand (keepsTable_onSurface keepsTable_retireSurface) ht
  | releaseSurface f => exact h.moves_runCommand (keepsTable_onSurface keepsTable_releaseSurface) ht
  | readSurface f => exact h.moves_runCommand (keepsTable_onSurface keepsTable_readSurface) ht
  | addItem f => exact h.moves_runCommand (keepsTable_addItem f) ht
  | setItem f => exact h.moves_runCommand (keepsTable_setItem f) ht
  | removeItem f => exact h.moves_runCommand (keepsTable_removeItem f) ht
  | moveItem f => exact h.moves_runCommand (keepsTable_moveItem f) ht
  | clearStaged f => exact h.moves_runCommand (keepsTable_clearStaged f) ht
  | cloneActive f => exact h.moves_runCommand (keepsTable_cloneActive f) ht
  | selectPage f => exact h.moves_runCommand (keepsTable_selectPage f) ht
  | readItem f => exact h.moves_runCommand (keepsTable_onSurface (keepsTable_readItem f)) ht
  | commit f => exact h.moves_runCommand (keepsTable_onSurface keepsTable_commit) ht
  | cancelCommit f => exact h.moves_runCommand (keepsTable_onSurface keepsTable_cancelCommit) ht
  | writeGlyph f => exact h.moves_runCommand (keepsTable_writeGlyph f) ht
  | writePageHeader f => exact h.moves_runCommand (keepsTable_writePageHeader f) ht
  | readGlyph f => exact h.moves_runCommand (keepsTable_readGlyph f) ht
  | writeString f => exact h.moves_runCommand (keepsTable_writeString f) ht
  | readString f => exact h.moves_runCommand (keepsTable_readString f) ht
  | setClock f => exact h.moves_runCommand (keepsTable_setClock f) ht
  | holdClock f => exact h.moves_runCommand keepsTable_holdClock ht
  | adjustClock f => exact h.moves_runCommand (keepsTable_adjustClock f) ht
  | readClock f => exact h.moves_runCommand keepsTable_readClock ht
  | setBypass f => exact h.moves_runCommand (keepsTable_setBypass f) ht
  | drain f => exact h.moves_runCommand (keepsTable_takeDrain f) ht
  | readStatus f => exact h.moves_runCommand keepsTable_readStatus ht
  | nextNotice f => exact h.moves_runCommand keepsTable_nextNotice ht
  | badFrame raw => exact h.moves_execBadFrame ht
  | badCommand number f => exact h.moves_execBadCommand ht
  | hardReset received => exact State.TableWf.moves_execHardReset ht
  | resetnRelease csnLow => exact h.moves_execResetnRelease ht
  | tick => exact h.moves_execTick ht
  | forcedCommit n => exact h.moves_unlessReset (h.moves_forceCommit n) ht
  | forcedRetirement n => exact h.moves_unlessReset (h.moves_forceRetirement n) ht
  | upstreamWrite w => cases ht; exact h.moves_arrive _
  | upstreamRead r => cases ht; exact h.moves_arrive _
  | writeIssue => exact h.moves_unlessReset h.moves_issueOne ht
  | writeCompletion st => exact h.moves_execWriteCompletion ht
  | heldReadRelease => exact h.moves_unlessReset h.moves_releaseOne ht
  | readResponse tag ret => exact h.moves_execReadResponse ht
  | upstreamAnswer tag => exact h.moves_unlessReset (h.moves_answerOne tag) ht
  | drainMet => exact h.moves_unlessReset h.moves_meetDrain ht

/-- Settles O53: each row moves the table to a well-formed one that brings nothing new to draw, or it is ACTIVATE
SURFACE, whose check of R11 keeps the drawing surfaces apart. -/
theorem surfaceTableKept : Obligations.SurfaceTableKept := by
  intro s t h hd ht
  unfold step at ht
  split at ht
  · cases ht; exact ⟨h, hd⟩
  · rename_i c rest _
    have hpop : s.TableMoves { s with pending := rest } := h.stays rfl rfl
    have hpd := hpop.rangesDisjoint hd
    by_cases hc : ∃ f, c = .activateSurface f
    · obtain ⟨f, rfl⟩ := hc
      exact execActivateSurface_keeps hpop.1 hpd ht
    · have hm := hpop.1.moves_exec (fun f hf => hc ⟨f, hf⟩) ht
      exact ⟨hm.1, hm.rangesDisjoint hpd⟩

end Sys2Proof.Machine
end

section
/-! The statements on the surface commands, on resets and on the expiries of deadlines. -/

namespace Sys2Proof.Machine

/-! ### A surface number above 7 (R2) -/

/-- A command that names a surface, with a payload of its length and a surface number out of range. -/
theorem runOnSurface_badNumber (number : Byte) (f : CommandFrame) (k : Nat) (body : SurfaceId → State → Reply × State)
    (s : State) (h : s.resetAsserted = false) (hk : (f.payload.length == k) = true)
    (hn : 7 < (f.payload.getD 0 0).toNat) :
    runCommand number f (f.payload.length == k) (onSurface f body) s = .next (replied s number f .badArg [] s) := by
  have hbody : onSurface f body = fun u => (.bare .badArg, u) := by
    funext u
    simp only [onSurface, arg, surfaceOf_none _ hn]
  rw [hk, hbody, runCommand_ok number f _ s h fun _ => ⟨rfl, rfl, rfl⟩]
  rfl

/-- Each of the commands that name a surface reads its number first, once its payload has the row's length. -/
theorem exec_surfaceRow {number : Byte} {row : CommandFrame → Instr} (hn : number ∈ surfaceRows)
    (hr : catalogue number = some row) :
    ∃ (k : Nat) (body : CommandFrame → SurfaceId → State → Reply × State), ∀ f s,
      payloadFits number f = (f.payload.length == k) ∧
        exec (row f) s = runCommand number f (f.payload.length == k) (onSurface f (body f)) s := by
  simp only [surfaceRows, List.mem_cons, List.not_mem_nil, or_false] at hn
  rcases hn with rfl | rfl | rfl | rfl | rfl | rfl | rfl | rfl | rfl | rfl | rfl | rfl | rfl | rfl | rfl <;> cases hr
  · exact ⟨24, defineSurface, fun _ _ => ⟨rfl, rfl⟩⟩
  · exact ⟨1, fun _ => activateSurface, fun _ _ => ⟨rfl, rfl⟩⟩
  · exact ⟨1, fun _ => retireSurface, fun _ _ => ⟨rfl, rfl⟩⟩
  · exact ⟨1, fun _ => releaseSurface, fun _ _ => ⟨rfl, rfl⟩⟩
  · exact ⟨1, fun _ => readSurface, fun _ _ => ⟨rfl, rfl⟩⟩
  · exact ⟨28, fun f => guardStaging (addItem f), fun _ _ => ⟨rfl, rfl⟩⟩
  · exact ⟨29, fun f => guardStaging (setItem f), fun _ _ => ⟨rfl, rfl⟩⟩
  · exact ⟨2, fun f => guardStaging (removeItem f), fun _ _ => ⟨rfl, rfl⟩⟩
  · exact ⟨3, fun f => guardStaging (moveItem f), fun _ _ => ⟨rfl, rfl⟩⟩
  · exact ⟨1, fun _ => guardStaging clearStaged, fun _ _ => ⟨rfl, rfl⟩⟩
  · exact ⟨1, fun _ => guardStaging cloneActive, fun _ _ => ⟨rfl, rfl⟩⟩
  · exact ⟨2, fun f => guardStaging (selectPage f), fun _ _ => ⟨rfl, rfl⟩⟩
  · exact ⟨3, readItem, fun _ _ => ⟨rfl, rfl⟩⟩
  · exact ⟨1, fun _ => commit, fun _ _ => ⟨rfl, rfl⟩⟩
  · exact ⟨1, fun _ => cancelCommit, fun _ _ => ⟨rfl, rfl⟩⟩

/-- Settles O7: every row that names a surface looks at its number before anything else. -/
theorem surfaceNumberAboveSevenRefused : Obligations.SurfaceNumberAboveSevenRefused := by
  intro s number row f hs hn hr hfit hbig
  obtain ⟨k, body, hrow⟩ := exec_surfaceRow hn hr
  obtain ⟨hlen, hexec⟩ := hrow f s
  rw [hexec]
  exact runOnSurface_badNumber number f k _ s hs (hlen ▸ hfit) hbig

/-! ### The reset input (R178, R186) -/

theorem GlyphPage.blank_cell (c : Fin 128) (i : Fin 240) : (GlyphPage.blank.cells[c])[i] = Shade.clear := by
  simp [GlyphPage.blank]

theorem State.reset_surf (n : SurfaceId) : State.reset.surf n = .vacant :=
  State.surf_of_replicate_vacant rfl n

theorem State.reset_slot (k : SlotId) : State.reset.slot k = ⟨[], 0⟩ := by
  simp [State.slot, State.reset]

theorem State.reset_page (p : Page) : State.reset.page p = .blank := by cases p <;> rfl

/-- Settles O10: a hard reset leaves the reset state but for the link, RESETN and what waits outside. -/
theorem hardResetEffects : Obligations.HardResetEffects := by
  intro s received
  refine ⟨_, rfl, State.reset_surf, rfl, fun p c i => ?_, fun p => ?_, State.reset_slot, rfl, rfl, rfl, rfl, rfl,
    rfl, rfl, rfl, rfl, rfl, rfl, rfl, rfl, rfl, rfl, rfl, rfl, rfl⟩
  · cases p <;> exact GlyphPage.blank_cell c i
  · cases p <;> rfl

/-- Settles O60: every part of the reset state is empty, VACANT or at its first value. -/
theorem invariantsHoldAtReset : Obligations.InvariantsHoldAtReset := by
  have hwf : State.reset.TableWf := ⟨by decide, fun n => by rw [State.reset_surf]; rfl⟩
  have hdis : State.reset.RangesDisjoint := fun n m _ hn => by rw [State.reset_surf] at hn; cases hn
  have hslots : ∀ k, State.reset.namingCount k = 0 := fun k => by
    simp [State.namingCount, State.reset_surf, Surface.vacant, namesIn_nil, surfaceIds]
  have hstores : State.reset.StoresWf :=
    ⟨fun p => by rw [State.reset_page]; decide, fun k => by rw [State.reset_slot]; decide⟩
  exact ⟨hwf, hdis, by decide, fun k => by rw [State.reset_slot, hslots], nofun, by decide, by decide, by decide,
    hstores, nofun, .inr ⟨rfl, rfl, rfl, fun t => rfl, rfl⟩⟩

/-! ### DEFINE SURFACE (R5) -/

theorem argBytes_tail {f : CommandFrame} {b : Byte} {desc : List Byte} {k : Nat} (hp : f.payload = b :: desc)
    (hk : desc.length = k) : argBytes f 1 k = desc := by
  rw [argBytes, hp, List.drop_succ_cons, List.drop_zero, ← hk, List.take_length]

/-- Settles O13: the state of the surface decides first, then the checks of the definition. -/
theorem defineSurfaceByState : Obligations.DefineSurfaceByState := by
  intro s f n desc hs hp hl
  have hrun := runOnSurface 0x10 f 24 (defineSurface f) s n desc hs (keepsPort_defineSurface f) hp (by omega)
  have hexec : exec (.defineSurface f) s = _ := hrun
  have hdesc := argBytes_tail hp hl
  rw [hexec]
  refine ⟨fun hst => ?_, fun hst hd => ?_, fun d hst hd => ?_, fun d hst hd => ?_⟩
  · rcases hst with hst | hst <;> simp only [defineSurface, State.surf_receive, hst] <;> rfl
  · rcases hst with hst | hst <;> simp only [defineSurface, State.surf_receive, hst, hdesc, hd] <;> rfl
  · simp only [defineSurface, State.surf_receive, hst, hdesc, hd]
    rfl
  · simp only [defineSurface, State.surf_receive, hst, hdesc, hd]
    rfl

/-! ### ACTIVATE SURFACE (R10 to R12) -/

/-- The surface numbers in ascending order, cut at one of them. -/
theorem surfaceIds_split (m : SurfaceId) :
    surfaceIds = surfaceIds.take m.val ++ m :: surfaceIds.drop (m.val + 1) ∧ ∀ l ∈ surfaceIds.take m.val, l < m := by
  revert m; decide

/-- The lowest-numbered other surface that overlaps is the one that blocks (R10, R11). -/
theorem State.overlapping_eq_some {s : State} {n m : SurfaceId} {d : SurfaceDef} (hm : m ≠ n)
    (ho : s.OverlapsWith d m) (hlow : ∀ l : SurfaceId, l < m → l ≠ n → ¬s.OverlapsWith d l) :
    s.overlapping n d = some m := by
  obtain ⟨hsplit, hlt⟩ := surfaceIds_split m
  rw [State.overlapping, List.find?_eq_some_iff_append]
  refine ⟨by simp [hm, (s.blocks_iff_overlapsWith m d).mpr ho], _, _, hsplit, fun l hl => ?_⟩
  rw [Bool.not_eq_true', ← Bool.not_eq_true, Bool.and_eq_true, bne_iff_ne, State.blocks_iff_overlapsWith]
  exact fun h => hlow l (hlt l hl) h.1 h.2

theorem State.blocker_eq {s : State} {n : SurfaceId} {d : SurfaceDef} (hd : (s.surf n).defn = some d) :
    s.blocker n = s.overlapping n d := by
  rw [State.blocker, hd, Option.bind_some]

theorem activateSurface_refused {n : SurfaceId} {u : State} (h : (u.surf n).state ≠ .defined) :
    activateSurface n u = (.bare .state, u) := if_neg h

theorem activateSurface_blocked {n m : SurfaceId} {u : State} (h : (u.surf n).state = .defined)
    (hb : u.blocker n = some m) : activateSurface n u = (⟨.overlap, [byteOf m.val]⟩, u) := by
  rw [activateSurface, if_pos h, hb]

theorem activateSurface_done {n : SurfaceId} {u : State} (h : (u.surf n).state = .defined) (hb : u.blocker n = none) :
    activateSurface n u = (.done, u.setSurf n (u.surf n).activated) := by
  rw [activateSurface, if_pos h, hb]

/-- Settles O15: the state check, then the overlap check of R11, then the record of R12. -/
theorem activateSurfaceChecksAndSets : Obligations.ActivateSurfaceChecksAndSets := by
  intro s f n hs hp
  have hrun := runOnSurface 0x11 f 1 activateSurface s n [] hs keepsPort_activateSurface hp rfl
  have hexec : exec (.activateSurface f) s = _ := hrun
  rw [hexec]
  refine ⟨fun hst => ?_, fun d hst hd => ⟨fun m hm ho hlow => ?_, fun hfree => ?_⟩⟩
  · rw [activateSurface_refused (u := s.receive _) hst]
    rfl
  · have hb : s.blocker n = some m := (State.blocker_eq hd).trans (State.overlapping_eq_some hm ho hlow)
    rw [activateSurface_blocked (u := s.receive _) hst hb]
    rfl
  · have hb : s.blocker n = none := (State.blocker_eq hd).trans (State.overlapping_eq_none.mpr hfree)
    rw [activateSurface_done (u := s.receive _) hst hb, State.surf_receive, Surface.activated, hd]
    rfl

/-! ### RETIRE SURFACE and RELEASE SURFACE (R13, R16) -/

theorem retireSurface_refused {n : SurfaceId} {u : State} (h : (u.surf n).state ≠ .live) :
    retireSurface n u = (.bare .state, u) := if_neg h

theorem retireSurface_done {n : SurfaceId} {u : State} (h : (u.surf n).state = .live) :
    retireSurface n u = (.done, u.setSurf n (u.surf n).beginRetirement) := if_pos h

theorem releaseSurface_refused {n : SurfaceId} {u : State} (h : (u.surf n).state ≠ .defined) :
    releaseSurface n u = (.bare .state, u) := if_neg h

theorem releaseSurface_done {n : SurfaceId} {u : State} (h : (u.surf n).state = .defined) :
    releaseSurface n u = (.done, (u.freeItems (u.surf n).staged).setSurf n .vacant) := if_pos h

theorem retireSurface_replies (s : State) (f : CommandFrame) (n : SurfaceId) (hs : s.Released)
    (hp : f.payload = [byteOf n.val]) :
    ((s.surf n).state ≠ .live → exec (.retireSurface f) s = .next (replied s 0x12 f .state [] s)) ∧
      ∀ d, (s.surf n).state = .live → (s.surf n).defn = some d →
        exec (.retireSurface f) s = .next (replied s 0x12 f .ok []
          (s.setSurf n
            { s.surf n with
              state := .retiring
              commitPending := false
              deadlineRemaining := if d.deadline = 0 then none else some d.deadline })) := by
  have hrun := runOnSurface 0x12 f 1 retireSurface s n [] hs keepsPort_retireSurface hp rfl
  have hexec : exec (.retireSurface f) s = _ := hrun
  rw [hexec]
  refine ⟨fun hst => ?_, fun d hst hd => ?_⟩
  · rw [retireSurface_refused (u := s.receive _) hst]
    rfl
  · rw [retireSurface_done (u := s.receive _) hst, State.surf_receive, Surface.beginRetirement,
      Surface.armedDeadline_eq hd]
    rfl

theorem releaseSurface_replies (s : State) (f : CommandFrame) (n : SurfaceId) (hs : s.Released)
    (hp : f.payload = [byteOf n.val]) :
    ((s.surf n).state ≠ .defined → exec (.releaseSurface f) s = .next (replied s 0x13 f .state [] s)) ∧
      ((s.surf n).state = .defined →
        exec (.releaseSurface f) s = .next (replied s 0x13 f .ok []
          ((s.freeItems (s.surf n).staged).setSurf n .vacant))) := by
  have hrun := runOnSurface 0x13 f 1 releaseSurface s n [] hs keepsPort_releaseSurface hp rfl
  have hexec : exec (.releaseSurface f) s = _ := hrun
  rw [hexec]
  refine ⟨fun hst => ?_, fun hst => ?_⟩
  · rw [releaseSurface_refused (u := s.receive _) hst]
    rfl
  · rw [releaseSurface_done (u := s.receive _) hst]
    rfl

/-- Settles O16: RETIRE SURFACE arms the deadline of a LIVE surface; RELEASE SURFACE frees what a DEFINED one staged. -/
theorem retireAndReleaseSurface : Obligations.RetireAndReleaseSurface := by
  refine ⟨retireSurface_replies, fun s f n hs hp => ?_⟩
  obtain ⟨hother, hdefined⟩ := releaseSurface_replies s f n hs hp
  refine ⟨hother, fun hst => ⟨_, hdefined hst, rfl, ?_, s.releaseSurface_tableAfter n⟩⟩
  exact s.freeItems_countsMoved (s.surf n).staged

/-! ### READ SURFACE (R17, R182) -/

theorem length_beBytes (k n : Nat) : (beBytes k n).length = k := by
  induction k generalizing n with
  | zero => rfl
  | succ k ih => simp [beBytes, ih]

theorem length_optBytes (k : Nat) (o : Option Nat) : (optBytes k o).length = k + 1 := by
  cases o <;> simp [optBytes, length_beBytes]

theorem length_optClock (o : Option ClockValue) : (optClock o).length = 10 := by
  cases o <;> simp [optClock, clockBytes, length_beBytes]

theorem length_surfaceDefBytes (d : SurfaceDef) : (surfaceDefBytes d).length = 23 := by
  simp [surfaceDefBytes, length_beBytes]

/-- The record of a surface that is not VACANT fills 57 bytes (R17). -/
theorem length_surfaceBytes {r : Surface} {d : SurfaceDef} (hv : r.state ≠ .vacant) (hd : r.defn = some d) :
    (surfaceBytes r).length = 57 := by
  simp only [surfaceBytes, if_neg hv, hd, optWord, optPage, List.length_cons, List.length_append, length_optBytes,
    length_optClock, length_beBytes, length_surfaceDefBytes, List.length_nil]

/-- Settles O17: the payload is the record as `surfaceBytes` writes it, and the state is as it was. -/
theorem readSurfaceReportsRecord : Obligations.ReadSurfaceReportsRecord := by
  intro s f n hs hp
  have hrun := runOnSurface 0x14 f 1 readSurface s n [] hs keepsPort_readSurface hp rfl
  have hexec : exec (.readSurface f) s = .next (replied s 0x14 f .ok (surfaceBytes (s.surf n)) s) := hrun
  refine ⟨fun hst => ?_, fun d hst hd => ⟨_, hexec, length_surfaceBytes hst hd, ?_⟩⟩
  · rw [hexec]
    simp only [surfaceBytes, hst, if_true]
    rfl
  · simp only [surfaceBytes, if_neg hst, hd, optWord, List.append_assoc, List.cons_append, List.nil_append]

/-! ### The expiries as rows of their own (R15, R66) -/

theorem State.forceCommit_acts {s : State} {n : SurfaceId} (hs : (s.surf n).state = .live)
    (hp : (s.surf n).commitPending = true) (hd : (s.surf n).deadlineRemaining = some 0) :
    s.forceCommit n = (s.applyCommit n).post (.commitForced n (s.surf n).frame.number) := by
  rcases s.forceCommit_cases n with ⟨-, -, -, he⟩ | ⟨hne, -⟩
  · exact he
  · exact absurd ⟨hs, hp, hd⟩ hne

theorem State.forceCommit_idle {s : State} {n : SurfaceId}
    (h : ¬((s.surf n).state = .live ∧ (s.surf n).commitPending = true ∧ (s.surf n).deadlineRemaining = some 0)) :
    s.forceCommit n = s := by
  rcases s.forceCommit_cases n with ⟨hs, hp, hd, -⟩ | ⟨-, he⟩
  · exact absurd ⟨hs, hp, hd⟩ h
  · exact he

theorem State.forceRetirement_acts {s : State} {n : SurfaceId} (hs : (s.surf n).state = .retiring)
    (hd : (s.surf n).deadlineRemaining = some 0) : s.forceRetirement n = s.completeRetirement n true := by
  rcases s.forceRetirement_cases n with ⟨-, -, he⟩ | ⟨hne, -⟩
  · exact he
  · exact absurd ⟨hs, hd⟩ hne

theorem State.forceRetirement_idle {s : State} {n : SurfaceId}
    (h : ¬((s.surf n).state = .retiring ∧ (s.surf n).deadlineRemaining = some 0)) : s.forceRetirement n = s := by
  rcases s.forceRetirement_cases n with ⟨hs, hd, -⟩ | ⟨-, he⟩
  · exact absurd ⟨hs, hd⟩ h
  · exact he

theorem exec_forcedCommit {s : State} (hs : s.Released) (n : SurfaceId) :
    exec (.forcedCommit n) s = .next (s.forceCommit n) := by
  simp only [exec, execForcedCommit, hs, Bool.false_eq_true, if_false]

theorem exec_forcedRetirement {s : State} (hs : s.Released) (n : SurfaceId) :
    exec (.forcedRetirement n) s = .next (s.forceRetirement n) := by
  simp only [exec, execForcedRetirement, hs, Bool.false_eq_true, if_false]

/-- Settles O26: at a deadline remaining of 0 the rows apply the commit or complete the retirement, and elsewhere they
do nothing. -/
theorem expiriesForce : Obligations.ExpiriesForce := by
  intro s n hs
  rw [exec_forcedCommit hs, exec_forcedRetirement hs]
  refine ⟨fun hst hp hd => ?_, fun hst hd => ?_, fun hne => ?_, fun hne => ?_⟩
  · obtain ⟨honly, hcounts, htable⟩ := s.applyCommit_spec n
    refine ⟨_, rfl, ?_⟩
    rw [State.forceCommit_acts hst hp hd]
    exact ⟨htable, hcounts, congrArg (fun t => t.post (.commitForced n (s.surf n).frame.number)) honly⟩
  · obtain ⟨hnotices, honly, hcounts, htable⟩ := s.completeRetirement_spec n true
    refine ⟨_, rfl, ?_⟩
    rw [State.forceRetirement_acts hst hd]
    exact ⟨htable, hcounts, rfl⟩
  · rw [State.forceCommit_idle hne]
  · rw [State.forceRetirement_idle hne]

end Sys2Proof.Machine
end

section
/-! A surface definition in its 23 bytes (R179, R181), and the checks of R3 and R4 on it. -/

namespace Sys2Proof.Machine

/-! ### Numbers of several bytes (R179) -/

theorem beNat_concat (bytes : List Byte) (b : Byte) : beNat (bytes ++ [b]) = beNat bytes * 256 + b.toNat := by
  simp [beNat]

theorem beNat_beBytes (k n : Nat) : beNat (beBytes k n) = n % 256 ^ k := by
  induction k generalizing n with
  | zero => simp [beBytes, beNat, Nat.mod_one]
  | succ k ih =>
    rw [beBytes, beNat_concat, ih, BitVec.toNat_ofNat,
      show 256 ^ (k + 1) = 256 * 256 ^ k from Nat.pow_succ', Nat.mod_mul]
    omega

/-- The number in the first bytes of a run. -/
theorem numAt_here {k n : Nat} (h : n < 256 ^ k) (rest : List Byte) : numAt (beBytes k n ++ rest) 0 k = n := by
  rw [numAt, List.drop_zero, List.take_left' (length_beBytes k n), beNat_beBytes, Nat.mod_eq_of_lt h]

/-- A number that begins behind the first part of a run. -/
theorem numAt_skip {first : List Byte} {m i k : Nat} (h : first.length = m) (rest : List Byte) (hi : m ≤ i) :
    numAt (first ++ rest) i k = numAt rest (i - m) k := by
  subst h
  rw [numAt, numAt, List.drop_append, List.drop_eq_nil_of_le hi, List.nil_append]

theorem getD_skip {first : List Byte} {m i : Nat} (h : first.length = m) (rest : List Byte) (hi : m ≤ i) :
    (first ++ rest).getD i 0 = rest.getD (i - m) 0 := by
  subst h
  exact List.getD_append_right _ _ _ _ hi

/-! ### The 23 bytes of a definition (R181) -/

theorem surfaceDefBytes_eq (d : SurfaceDef) :
    surfaceDefBytes d =
      beBytes 5 d.base ++ (beBytes 4 d.pitch ++ (beBytes 2 d.width ++ (beBytes 2 d.height ++ ([d.format.byte] ++
        (beBytes 1 d.bufferCount ++ (beBytes 4 d.stride ++ (beBytes 1 d.rewindTolerance ++ (beBytes 2 d.deadline ++
          [flagByte d.frameNotices])))))))) := by
  simp only [surfaceDefBytes, List.append_assoc, List.cons_append, List.nil_append]
  rfl

theorem formatOf_byte (x : PixelFormat) : formatOf x.byte = some x := by cases x <;> decide

theorem switchOf_flagByte (b : Bool) : switchOf (flagByte b) = some b := by cases b <;> decide

/-- The values of a definition fit the bytes that carry them. -/
structure SurfaceDef.Fits (d : SurfaceDef) : Prop where
  base            : d.base < 2 ^ 40
  pitch           : d.pitch < 2 ^ 32
  width           : d.width < 2 ^ 16
  height          : d.height < 2 ^ 16
  bufferCount     : d.bufferCount < 2 ^ 8
  stride          : d.stride < 2 ^ 32
  rewindTolerance : d.rewindTolerance < 2 ^ 8
  deadline        : d.deadline < 2 ^ 16

/-- A definition is read back from its bytes, with its own stride, if it passes the checks of R3 and R4. -/
theorem surfaceDefOf_surfaceDefBytes {d : SurfaceDef} (h : d.Fits) :
    surfaceDefOf (surfaceDefBytes d) =
      if d.withOwnStride.rangesOk && d.withOwnStride.consistent then some d.withOwnStride else none := by
  obtain ⟨h1, h2, h3, h4, h5, h6, h7, h8⟩ := h
  have skip {k n : Nat} (rest : List Byte) {i j : Nat} (hi : k ≤ i) :
      numAt (beBytes k n ++ rest) i j = numAt rest (i - k) j := numAt_skip (length_beBytes k n) rest hi
  have skipD {k n : Nat} (rest : List Byte) {i : Nat} (hi : k ≤ i) :
      (beBytes k n ++ rest).getD i 0 = rest.getD (i - k) 0 := getD_skip (length_beBytes k n) rest hi
  have skip1 {b : Byte} (rest : List Byte) {i j : Nat} (hi : 1 ≤ i) :
      numAt ([b] ++ rest) i j = numAt rest (i - 1) j := numAt_skip rfl rest hi
  have skipD1 {b : Byte} (rest : List Byte) {i : Nat} (hi : 1 ≤ i) :
      ([b] ++ rest).getD i 0 = rest.getD (i - 1) 0 := getD_skip rfl rest hi
  have hformat : formatOf ((surfaceDefBytes d).getD 13 0) = some d.format := by
    rw [surfaceDefBytes_eq]
    simp (disch := omega) only [skipD, Nat.reduceSub]
    exact formatOf_byte d.format
  have hswitch : switchOf ((surfaceDefBytes d).getD 22 0) = some d.frameNotices := by
    rw [surfaceDefBytes_eq]
    simp (disch := omega) only [skipD, skipD1, Nat.reduceSub]
    exact switchOf_flagByte d.frameNotices
  simp only [surfaceDefOf, hformat, hswitch]
  rw [surfaceDefBytes_eq]
  simp (disch := omega) only [skip, skip1, Nat.reduceSub, numAt_here]

theorem SurfaceDef.withOwnStride_eq (d : SurfaceDef) :
    d.withOwnStride = { d with stride := if d.bufferCount = 1 then d.pitch * d.height else d.stride } := by
  unfold SurfaceDef.withOwnStride
  split <;> rfl

/-- The checks of R3 and R4 on a definition whose fields fit their bytes. -/
theorem SurfaceDef.passes_iff {d : SurfaceDef} (h : d.Fits) :
    (d.withOwnStride.rangesOk && d.withOwnStride.consistent) = true ↔
      (d.base ≤ 0xFFFFFFFC0 ∧ d.base % 64 = 0 ∧ 64 ≤ d.pitch ∧ d.pitch ≤ 65536 ∧ d.pitch % 64 = 0 ∧
        16 ≤ d.width ∧ d.width ≤ 4096 ∧ 16 ≤ d.height ∧ d.height ≤ 4096 ∧
        1 ≤ d.bufferCount ∧ d.bufferCount ≤ 4 ∧
        (2 ≤ d.bufferCount → 4096 ≤ d.stride ∧ d.stride ≤ 268435456 ∧ d.stride % 4096 = 0 ∧
          d.pitch * d.height ≤ d.stride) ∧
        d.width * d.format.bpp ≤ d.pitch ∧ (d.format = .yuyv → d.width % 2 = 0) ∧
        d.base + (d.bufferCount - 1) * (if d.bufferCount = 1 then d.pitch * d.height else d.stride)
          + d.pitch * d.height ≤ 0x1000000000) := by
  have h7 := h.rewindTolerance
  have h8 := h.deadline
  rw [Bool.and_eq_true, SurfaceDef.rangesOk_iff, SurfaceDef.consistent_iff, SurfaceDef.withOwnStride_eq]
  simp only [SurfaceDef.bufferSize]
  by_cases hone : d.bufferCount = 1
  · simp only [if_pos hone]
    constructor
    · rintro ⟨⟨g1, g2, g3, g4, g5, g6, g7, g8, g9, g10, g11, -⟩, g12, g13, -, g14⟩
      exact ⟨g1, g2, g3, g4, g5, g6, g7, g8, g9, g10, g11, by omega, g12, g13, g14⟩
    · rintro ⟨g1, g2, g3, g4, g5, g6, g7, g8, g9, g10, g11, -, g12, g13, g14⟩
      exact ⟨⟨g1, g2, g3, g4, g5, g6, g7, g8, g9, g10, g11, .inl hone, by omega, by omega⟩, g12, g13, .inl hone, g14⟩
  · simp only [if_neg hone]
    constructor
    · rintro ⟨⟨g1, g2, g3, g4, g5, g6, g7, g8, g9, g10, g11, g15, -⟩, g12, g13, g16, g14⟩
      exact ⟨g1, g2, g3, g4, g5, g6, g7, g8, g9, g10, g11, by omega, g12, g13, g14⟩
    · rintro ⟨g1, g2, g3, g4, g5, g6, g7, g8, g9, g10, g11, g15, g12, g13, g14⟩
      exact ⟨⟨g1, g2, g3, g4, g5, g6, g7, g8, g9, g10, g11, by omega, by omega, by omega⟩, g12, g13, by omega, g14⟩

theorem formatOf_none {b : Byte} (h : 3 < b.toNat) : formatOf b = none := by
  have hne : ∀ k : Byte, k.toNat ≤ 3 → b ≠ k := fun k hk hb => by rw [hb] at h; omega
  rw [formatOf, if_neg (hne _ (by decide)), if_neg (hne _ (by decide)), if_neg (hne _ (by decide)),
    if_neg (hne _ (by decide))]

theorem switchOf_none {b : Byte} (h : 1 < b.toNat) : switchOf b = none := by
  have hne : ∀ k : Byte, k.toNat ≤ 1 → b ≠ k := fun k hk hb => by rw [hb] at h; omega
  rw [switchOf, if_neg (hne _ (by decide)), if_neg (hne _ (by decide))]

/-- A format or a switch outside its enumeration (R179). -/
theorem surfaceDefOf_none {desc : List Byte} (h : 3 < (desc.getD 13 0).toNat ∨ 1 < (desc.getD 22 0).toNat) :
    surfaceDefOf desc = none := by
  rcases h with h | h
  · simp only [surfaceDefOf, formatOf_none h]
  · cases hf : formatOf (desc.getD 13 0) <;> simp only [surfaceDefOf, hf, switchOf_none h]

/-- Settles O14: a definition is read back from its bytes exactly when it passes the checks, with its own stride. -/
theorem surfaceDefinitionChecks : Obligations.SurfaceDefinitionChecks := by
  refine ⟨fun d h1 h2 h3 h4 h5 h6 h7 h8 => ?_, fun desc _ h => surfaceDefOf_none h⟩
  have hfits : d.Fits := ⟨h1, h2, h3, h4, h5, h6, h7, h8⟩
  intro stride
  rw [surfaceDefOf_surfaceDefBytes hfits]
  refine ⟨?_, fun e he => ?_⟩
  · rw [← SurfaceDef.passes_iff hfits, Option.isSome_ite]
  · rw [← SurfaceDef.withOwnStride_eq]
    split at he
    · exact (Option.some.inj he).symm
    · cases he

end Sys2Proof.Machine
end

section
/-! The cut of a write and the order in which its portions are handled (R8, R9), and redaction (R134). -/

namespace Sys2Proof.Machine

/-- Settles O42: the cut, a write on one buffer, and the order of the portions. -/
theorem portionsCutTheWrite : Obligations.PortionsCutTheWrite := by
  refine ⟨fun s a lanes => ⟨s.portions_lanes a lanes, fun before p after h => ?_, fun _ _ _ _ h => ?_⟩,
    fun s w n d k hw hdis hon hne => ?_, fun s before after p => ?_⟩
  · obtain ⟨hne, hloc⟩ := s.portions_located a lanes p (by rw [h]; simp)
    exact ⟨hne, State.portions_start h, hloc⟩
  · exact State.portions_neighbours h
  · obtain ⟨hs, hd, hk, hlow, hhigh⟩ := hon
    refine State.portions_single hne fun i hi => ?_
    refine State.locate_of_holds hw hdis ((Surface.drawing_iff _).mpr hs) hd ⟨hk, ?_, ?_⟩ <;>
      simp only [SurfaceDef.bufferStart, SurfaceDef.bufferSize] <;> omega
  · simp only [State.handlePortions_append, State.handlePortions, List.append_assoc]

/-! ### Bypass stays off the REDACT items while a write is handled (R55) -/

/-- One record changes, and holds no REDACT item if none did. -/
theorem State.BypassSafe.update {s t : State} (h : s.BypassSafe) {n : SurfaceId} {r : Surface}
    (ht : s.TableAfter t n r) (hb : t.bypass = s.bypass)
    (hr : (s.surf n).staged.any Item.isRedact = false ∧ (s.surf n).active.any Item.isRedact = false →
      r.staged.any Item.isRedact = false ∧ r.active.any Item.isRedact = false) : t.BypassSafe := by
  intro hon m
  rw [hb] at hon
  by_cases hm : m = n
  · rw [hm, ht.1]; exact hr (h hon n)
  · rw [ht.2 m hm]; exact h hon m

@[simp] theorem State.applyCommit_bypass (s : State) (n : SurfaceId) : (s.applyCommit n).bypass = s.bypass := by
  simp [State.applyCommit]

@[simp] theorem State.completeRetirement_bypass (s : State) (n : SurfaceId) (forced : Bool) :
    (s.completeRetirement n forced).bypass = s.bypass := by
  simp [State.completeRetirement]

theorem State.BypassSafe.applyCommit {s : State} (h : s.BypassSafe) (n : SurfaceId) : (s.applyCommit n).BypassSafe :=
  h.update (s.applyCommit_tableAfter n) (by simp) fun hr => ⟨rfl, hr.1⟩

theorem State.BypassSafe.completeRetirement {s : State} (h : s.BypassSafe) (n : SurfaceId) (forced : Bool) :
    (s.completeRetirement n forced).BypassSafe :=
  h.update (s.completeRetirement_tableAfter n forced) (by simp) fun hr => ⟨hr.1, rfl⟩

theorem State.BypassSafe.commitAtStart {s : State} (h : s.BypassSafe) (n : SurfaceId) :
    (s.commitAtStart n).BypassSafe := by
  unfold State.commitAtStart
  split
  · exact State.BypassSafe.applyCommit h n
  · exact h

theorem State.BypassSafe.noticeAtStart {s : State} (h : s.BypassSafe) (n : SurfaceId) (d : SurfaceDef) (k : BufferId) :
    (s.noticeAtStart n d k).BypassSafe := by
  unfold State.noticeAtStart
  split <;> exact h

theorem State.BypassSafe.startFrame {s : State} (h : s.BypassSafe) (n : SurfaceId) (d : SurfaceDef) (k : BufferId)
    (hi : Nat) : (s.startFrame n d k hi).BypassSafe := by
  have hbegun : (s.beginFrame n k hi).BypassSafe := h.update (s.tableAfter_setSurf n _) rfl id
  unfold State.startFrame
  dsimp only
  split
  · exact State.BypassSafe.completeRetirement hbegun n false
  · exact State.BypassSafe.noticeAtStart (State.BypassSafe.commitAtStart hbegun n) n d k

theorem State.BypassSafe.handlePortion {s : State} (h : s.BypassSafe) (p : Portion) :
    (s.handlePortion p).1.BypassSafe := by
  cases ht : s.trackedOn p with
  | none => rw [State.handlePortion_untracked ht]; exact h
  | some out =>
    obtain ⟨⟨n, k⟩, d⟩ := out
    rw [State.handlePortion_tracked (State.tracks_of_trackedOn ht)]
    rcases s.trackPortion_cases n d k (p.lowRow d k) (p.highRow d k) with ⟨-, e⟩ | ⟨-, e⟩ <;> simp only [e]
    · exact h.startFrame n d k _
    · exact h.update (s.tableAfter_setSurf n _) rfl id

theorem State.BypassSafe.handlePortions {s : State} (h : s.BypassSafe) (ps : List Portion) :
    (s.handlePortions ps).1.BypassSafe :=
  State.handlePortions_keeps (P := State.BypassSafe) (fun _ p hu => State.BypassSafe.handlePortion hu p) s ps h

/-! ### The bytes of a portion stand in the write handed on (R9) -/

theorem State.stampAfter_length (s : State) (p : Portion) (ref : BufferRef) (d : SurfaceDef) :
    (s.stampAfter p ref d).length = p.lanes.length := by
  unfold State.stampAfter
  split
  · exact stampPortion_length ..
  · rfl

theorem State.handlePortion_length (s : State) (p : Portion) : (s.handlePortion p).2.length = p.lanes.length := by
  unfold State.handlePortion
  dsimp only
  split
  · rfl
  · exact State.stampAfter_length ..

theorem State.handlePortions_length (s : State) (ps : List Portion) :
    (s.handlePortions ps).2.lanes.length = (ps.flatMap Portion.lanes).length := by
  induction ps generalizing s with
  | nil => rfl
  | cons p ps ih =>
    simp only [State.handlePortions, List.length_append, State.handlePortion_length, ih, List.flatMap_cons]

/-! ### The topmost REDACT item over a byte (R124, R133) -/

/-- The last value that a list yields, when nothing behind the element that yields it yields one. -/
theorem getLast?_filterMap {α β : Type} {f : α → Option β} {below above : List α} {x : α} {y : β} (hx : f x = some y)
    (ha : ∀ z ∈ above, f z = none) : ((below ++ x :: above).filterMap f).getLast? = some y := by
  rw [List.filterMap_append, List.filterMap_cons_some hx, List.filterMap_eq_nil_iff.mpr ha, List.getLast?_concat]

theorem DrawnItem.redaction_eq_none {x : DrawnItem} {c r : Nat}
    (h : ∀ b : RectItem, x.item = .redact b → b.covers c r = false) : x.redaction c r = none := by
  unfold DrawnItem.redaction
  split
  · rfl
  · rfl
  · rename_i b hb
    simp [h b hb]

/-- The REDACT item `b` of a list is the topmost one over a place: it covers it, and none above it does. -/
structure TopRedact (covers : RectItem → Bool) (b : RectItem) (above : List DrawnItem) : Prop where
  here  : covers b = true
  above : ∀ x ∈ above, ∀ c : RectItem, x.item = .redact c → covers c = false

theorem redactionAt_top {below above : List DrawnItem} {b : RectItem} {c r : Nat}
    (h : TopRedact (fun q => q.covers c r) b above) :
    redactionAt (below ++ ⟨.redact b, []⟩ :: above) c r = some b.ink := by
  refine getLast?_filterMap (by simp [DrawnItem.redaction, h.here]) fun z hz => ?_
  exact DrawnItem.redaction_eq_none fun q hq => h.above z hz q hq

theorem pairRedactionAt_top {below above : List DrawnItem} {b : RectItem} {left right r : Nat}
    (h : TopRedact (fun q => q.covers left r || q.covers right r) b above) :
    pairRedactionAt (below ++ ⟨.redact b, []⟩ :: above) left right r = some b.ink := by
  refine getLast?_filterMap ?_ fun z hz => ?_
  · cases hl : b.covers left r
    · have hr : b.covers right r = true := (Bool.or_eq_true_iff.mp h.here).resolve_left (by simp [hl])
      simp [DrawnItem.redaction, hl, hr]
    · simp [DrawnItem.redaction, hl]
  · have hz' : ∀ q : RectItem, z.item = .redact q → q.covers left r = false ∧ q.covers right r = false :=
      fun q hq => Bool.or_eq_false_iff.mp (h.above z hz q hq)
    rw [DrawnItem.redaction_eq_none fun q hq => (hz' q hq).1, DrawnItem.redaction_eq_none fun q hq => (hz' q hq).2]
    rfl

/-- A byte of the RGB565 part of a colour is that byte of the colour (R126). -/
theorem colour565_byte (c : Colour) {i : Nat} (hi : i < 2) : (colour565 c).extractLsb' (8 * i) 8 = colourByte c i := by
  refine BitVec.eq_of_getLsbD_eq fun j hj => ?_
  simp only [colour565, colourByte, BitVec.getLsbD_extractLsb', hj, decide_true, Bool.true_and, Nat.zero_add]
  simp [show 8 * i + j < 16 by omega]

/-- A byte under a REDACT item takes the byte of its ink, whatever was written and whatever else is drawn (R131,
R133). -/
theorem stampedByte_redacted {d : SurfaceDef} {page : GlyphPage} {below above : List DrawnItem} {b : RectItem}
    {lanes : List Lane} {o i : Nat} (hin : o % d.pitch < d.width * d.format.bpp)
    (h : TopRedact (fun q => q.coversByte d (o % d.pitch) (o / d.pitch)) b above) :
    stampedByte d page (below ++ ⟨.redact b, []⟩ :: above) lanes o i
      = colourByte b.ink (d.colourPlace (o % d.pitch)) := by
  simp only [stampedByte, if_neg (Nat.not_le.mpr hin), SurfaceDef.colourPlace]
  simp only [RectItem.coversByte] at h
  cases hf : d.format with
  | y8 =>
    simp only [hf] at h ⊢
    rw [composeByte, redactionAt_top h]
  | xrgb8888 =>
    simp only [hf] at h ⊢
    rw [composeByte, redactionAt_top h]
    rfl
  | rgb565 =>
    simp only [hf, PixelFormat.bpp] at h ⊢
    simp only [compose565, redactionAt_top h]
    by_cases hz : o % d.pitch % 2 = 0
    · simp only [hz, if_true]
      exact colour565_byte b.ink (i := 0) (by omega)
    · rw [if_neg hz, show o % d.pitch % 2 = 1 by omega]
      exact colour565_byte b.ink (i := 1) (by omega)
  | yuyv =>
    simp only [hf, PixelFormat.bpp] at h ⊢
    by_cases hz : o % d.pitch % 2 = 0
    · simp only [hz, if_true] at h ⊢
      rw [composeByte, redactionAt_top h]
    · simp only [hz, if_false] at h ⊢
      have hpair : o % d.pitch / 2 % 2 = 0 ↔ o % d.pitch % 4 = 1 := by omega
      simp only [composeChroma, pairRedactionAt_top h, hpair]

/-! ### The redaction of a tracked portion (R134) -/

theorem drawnItems_split (s : State) (n : SurfaceId) (page : GlyphPage) (below above : List Item) (b : RectItem) :
    drawnItems s n page (below ++ .redact b :: above)
      = drawnItems s n page below ++ ⟨.redact b, []⟩ :: drawnItems s n page above := by
  simp [drawnItems]

theorem item_of_mem_drawnItems {s : State} {n : SurfaceId} {page : GlyphPage} {items : List Item} {x : DrawnItem}
    (h : x ∈ drawnItems s n page items) : x.item ∈ items := by
  obtain ⟨it, hit, rfl⟩ := List.mem_map.mp h
  cases it <;> exact hit

/-- A stamped portion of a drawing surface: an enabled byte under the topmost REDACT item takes its colour. -/
theorem stampPortion_redacted {s : State} {n : SurfaceId} {d : SurfaceDef} {page : Page} {o i : Nat} {lanes : List Lane}
    {l : Lane} {below above : List Item} {b : RectItem} (hp : (s.surf n).activePage = some page)
    (ha : (s.surf n).active = below ++ .redact b :: above) (hl : lanes[i]? = some l) (he : l.enabled = true)
    (hin : (o + i) % d.pitch < d.width * d.format.bpp)
    (hb : b.coversByte d ((o + i) % d.pitch) ((o + i) / d.pitch) = true)
    (hab : ∀ c : RectItem, .redact c ∈ above → c.coversByte d ((o + i) % d.pitch) ((o + i) / d.pitch) = false) :
    (stampPortion s n d o lanes)[i]? = some ⟨colourByte b.ink (d.colourPlace ((o + i) % d.pitch)), true⟩ := by
  have htop : TopRedact (fun q => q.coversByte d ((o + i) % d.pitch) ((o + i) / d.pitch)) b
      (drawnItems s n (s.page page) above) := by
    refine ⟨hb, fun x hx c hc => hab c ?_⟩
    rw [← hc]
    exact item_of_mem_drawnItems hx
  simp only [stampPortion, hp, ha, drawnItems_split]
  rw [stampFrom_getElem?, hl, Nat.zero_add, stampedByte_redacted hin htop]
  simp [he]

/-- The bytes that the handling of a portion leaves, where its surface still draws and bypass is off. -/
theorem State.handlePortion_stamped {s : State} {p : Portion} {ref : BufferRef} {d : SurfaceDef}
    (ht : s.trackedOn p = some (ref, d)) (hr : ((s.handlePortion p).1.surf ref.surface).drawing = true)
    (hb : (s.handlePortion p).1.bypass = false) :
    (s.handlePortion p).2
      = stampPortion (s.handlePortion p).1 ref.surface d (p.start - (d.base + ref.buffer.val * d.stride)) p.lanes := by
  have hout := State.handlePortion_tracked (State.tracks_of_trackedOn ht)
  rw [hout] at hr hb ⊢
  simp only at hr hb
  simp only [State.stampAfter, hr, hb, Bool.not_false, Bool.and_self, if_true]
  rfl

/-- Settles O43: while a REDACT item is on an active list bypass is off, so the portion is stamped, and the topmost such
item over a byte decides it. -/
theorem redactionHolds : Obligations.RedactionHolds := by
  intro s w before after p ref d hw hsafe hcut s₁ out ht
  have hlocated := s.portions_located w.addr.toNat w.lanes
  rw [hcut] at hlocated
  have hmoved : s.TableMoves s₁ := hw.refl.handlePortions fun q hq => hlocated q (by simp [hq])
  have hout : out.1.TableWf := (hmoved.handlePortion (hlocated p (by simp))).1
  have hsafe' : out.1.BypassSafe := State.BypassSafe.handlePortion (State.BypassSafe.handlePortions hsafe before) p
  refine ⟨⟨(s.handlePortions before).2.lanes, ((s₁.handlePortion p).1.handlePortions after).2.lanes, ?_, ?_⟩, ?_⟩
  · simp only [State.classifyWrite, hcut, State.handlePortions_append, State.handlePortions, List.append_assoc, out, s₁]
  · exact s.handlePortions_length before
  · intro i l below above b o hl he hst hin hact hb hab
    have hr : (out.1.surf ref.surface).drawing = true := (Surface.drawing_iff _).mpr hst
    obtain ⟨e, hdefn⟩ := Surface.exists_defn (hout.2 ref.surface) (Surface.ne_vacant_of_drawing hr)
    obtain ⟨page, hpage⟩ :=
      Option.isSome_iff_exists.mp (Surface.wf_drawing (hout.2 ref.surface) hr hdefn).1
    have hoff : out.1.bypass = false := by
      by_contra hon
      have hnone := (hsafe' (by simpa using hon) ref.surface).2
      simp [hact, Item.isRedact] at hnone
    rw [State.handlePortion_stamped ht hr hoff]
    exact stampPortion_redacted hpage hact hl he hin hb hab

end Sys2Proof.Machine
end

section
/-! UPSTREAM_WRITE taken at once (R142, R143): what the surface table leaves alone of the pass-through unit, and the
issue of an entry that has just joined the queue. -/

namespace Sys2Proof.Machine

/-! ### The taking of a write by the surface table changes nothing of the pass-through unit (R9) -/

/-- `t` differs from `s` at most in the surface table, the pool, the string store and the notices. -/
def State.OnlyTableAndNotices (s t : State) : Prop :=
  t = { s with surfaces := t.surfaces, freeCount := t.freeCount, slots := t.slots, notices := t.notices }

theorem State.OnlyTableAndNotices.refl (s : State) : s.OnlyTableAndNotices s := rfl

theorem State.OnlyTableAndNotices.trans {s t u : State} (h : s.OnlyTableAndNotices t) (g : t.OnlyTableAndNotices u) :
    s.OnlyTableAndNotices u := by
  rw [State.OnlyTableAndNotices] at *
  rw [g, h]

/-- The parts of the pass-through unit, left alone. -/
theorem State.OnlyTableAndNotices.traffic {s t : State} (h : s.OnlyTableAndNotices t) :
    t.queue = s.queue ∧ t.nextSeq = s.nextSeq ∧ t.held = s.held ∧ t.places = s.places ∧ t.upstream = s.upstream ∧
      t.presented = s.presented ∧ t.answers = s.answers := by
  rw [State.OnlyTableAndNotices] at h
  rw [h]
  exact ⟨rfl, rfl, rfl, rfl, rfl, rfl, rfl⟩

theorem State.onlyTableAndNotices_setSurf (s : State) (n : SurfaceId) (r : Surface) :
    s.OnlyTableAndNotices (s.setSurf n r) := rfl

theorem State.onlyTableAndNotices_post (s : State) (x : Notice) : s.OnlyTableAndNotices (s.post x) := rfl

theorem State.onlyTableAndNotices_applyCommit (s : State) (n : SurfaceId) :
    s.OnlyTableAndNotices (s.applyCommit n) := rfl

theorem State.onlyTableAndNotices_completeRetirement (s : State) (n : SurfaceId) (forced : Bool) :
    s.OnlyTableAndNotices (s.completeRetirement n forced) := rfl

theorem State.onlyTableAndNotices_commitAtStart (s : State) (n : SurfaceId) :
    s.OnlyTableAndNotices (s.commitAtStart n) := by
  unfold State.commitAtStart
  split
  · exact (s.onlyTableAndNotices_applyCommit n).trans (State.onlyTableAndNotices_post _ _)
  · exact .refl s

theorem State.onlyTableAndNotices_noticeAtStart (s : State) (n : SurfaceId) (d : SurfaceDef) (k : BufferId) :
    s.OnlyTableAndNotices (s.noticeAtStart n d k) := by
  unfold State.noticeAtStart
  split
  · exact s.onlyTableAndNotices_post _
  · exact .refl s

theorem State.onlyTableAndNotices_startFrame (s : State) (n : SurfaceId) (d : SurfaceDef) (k : BufferId) (hi : Nat) :
    s.OnlyTableAndNotices (s.startFrame n d k hi) := by
  have hbegun : s.OnlyTableAndNotices (s.beginFrame n k hi) := s.onlyTableAndNotices_setSurf n _
  unfold State.startFrame
  dsimp only
  split
  · exact hbegun.trans (State.onlyTableAndNotices_completeRetirement _ n false)
  · exact (hbegun.trans (State.onlyTableAndNotices_commitAtStart _ n)).trans
      (State.onlyTableAndNotices_noticeAtStart _ n d k)

theorem State.onlyTableAndNotices_handlePortion (s : State) (p : Portion) :
    s.OnlyTableAndNotices (s.handlePortion p).1 := by
  cases ht : s.trackedOn p with
  | none => rw [State.handlePortion_untracked ht]; exact .refl s
  | some out =>
    obtain ⟨⟨n, k⟩, d⟩ := out
    rw [State.handlePortion_tracked (State.tracks_of_trackedOn ht)]
    rcases s.trackPortion_cases n d k (p.lowRow d k) (p.highRow d k) with ⟨-, e⟩ | ⟨-, e⟩ <;> simp only [e]
    · exact s.onlyTableAndNotices_startFrame n d k _
    · exact s.onlyTableAndNotices_setSurf n _

theorem State.onlyTableAndNotices_classifyWrite (s : State) (w : WriteRequest) :
    s.OnlyTableAndNotices (s.classifyWrite w).1 :=
  State.handlePortions_keeps (P := s.OnlyTableAndNotices)
    (fun u p hu => hu.trans (u.onlyTableAndNotices_handlePortion p)) s _ (.refl s)

/-! ### The taking of a write by the surface table does not look at what waits upstream -/

/-- The state with other requests waiting upstream. -/
def State.withUpstream (us : List UpstreamRequest) (s : State) : State := { s with upstream := us }

theorem State.portions_withUpstream (s : State) (us : List UpstreamRequest) (a : Nat) (lanes : List Lane) :
    (s.withUpstream us).portions a lanes = s.portions a lanes := by
  induction lanes generalizing a with
  | nil => rfl
  | cons l rest ih =>
    simp only [State.portions, ih]
    rfl

theorem State.commitAtStart_withUpstream (s : State) (us : List UpstreamRequest) (n : SurfaceId) :
    (s.withUpstream us).commitAtStart n = (s.commitAtStart n).withUpstream us := by
  rw [State.commitAtStart, State.commitAtStart, apply_ite (State.withUpstream us)]
  rfl

theorem State.noticeAtStart_withUpstream (s : State) (us : List UpstreamRequest) (n : SurfaceId) (d : SurfaceDef)
    (k : BufferId) : (s.withUpstream us).noticeAtStart n d k = (s.noticeAtStart n d k).withUpstream us := by
  rw [State.noticeAtStart, State.noticeAtStart, apply_ite (State.withUpstream us)]
  rfl

theorem State.startFrame_withUpstream (s : State) (us : List UpstreamRequest) (n : SurfaceId) (d : SurfaceDef)
    (k : BufferId) (hi : Nat) : (s.withUpstream us).startFrame n d k hi = (s.startFrame n d k hi).withUpstream us := by
  have hbegun : (s.withUpstream us).beginFrame n k hi = (s.beginFrame n k hi).withUpstream us := rfl
  simp only [State.startFrame, hbegun, State.commitAtStart_withUpstream, State.noticeAtStart_withUpstream,
    apply_ite (State.withUpstream us)]
  rfl

theorem State.trackPortion_withUpstream (s : State) (us : List UpstreamRequest) (n : SurfaceId) (d : SurfaceDef)
    (k : BufferId) (lo hi : Nat) :
    (s.withUpstream us).trackPortion n d k lo hi = (s.trackPortion n d k lo hi).withUpstream us := by
  simp only [State.trackPortion, State.startFrame_withUpstream, apply_ite (State.withUpstream us)]
  rfl

theorem State.handlePortion_withUpstream (s : State) (us : List UpstreamRequest) (p : Portion) :
    (s.withUpstream us).handlePortion p = ((s.handlePortion p).1.withUpstream us, (s.handlePortion p).2) := by
  cases ht : s.trackedOn p with
  | none => rw [State.handlePortion_untracked ht, State.handlePortion_untracked (s := s.withUpstream us) ht]
  | some out =>
    obtain ⟨⟨n, k⟩, d⟩ := out
    have htracks := State.tracks_of_trackedOn ht
    rw [State.handlePortion_tracked htracks, State.handlePortion_tracked (s := s.withUpstream us) htracks,
      State.trackPortion_withUpstream]
    rfl

theorem State.handlePortions_withUpstream (s : State) (us : List UpstreamRequest) (ps : List Portion) :
    (s.withUpstream us).handlePortions ps = ((s.handlePortions ps).1.withUpstream us, (s.handlePortions ps).2) := by
  induction ps generalizing s with
  | nil => rfl
  | cons p ps ih =>
    simp only [State.handlePortions, State.handlePortion_withUpstream, ih]
    rfl

theorem State.classifyWrite_withUpstream (s : State) (us : List UpstreamRequest) (w : WriteRequest) :
    (s.withUpstream us).classifyWrite w = ((s.classifyWrite w).1.withUpstream us, (s.classifyWrite w).2) := by
  rw [State.classifyWrite, State.portions_withUpstream, State.handlePortions_withUpstream]
  rfl

/-! ### An entry that has just joined the queue (R143, R147) -/

theorem State.canRelease_iff (s : State) :
    s.canRelease = true ↔ ∃ h rest, s.held = h :: rest ∧ s.heldReady h = true := by
  unfold State.canRelease
  cases s.held <;> simp

/-- A read that is not ready is not ready with one more entry in the queue either. -/
theorem State.canRelease_of_append {s t : State} {e : QueueEntry} (hq : t.queue = s.queue ++ [e])
    (hh : t.held = s.held) (h : s.canRelease = false) : t.canRelease = false := by
  rw [← Bool.not_eq_true, State.canRelease_iff] at h ⊢
  rintro ⟨r, rest, hr, hready⟩
  refine h ⟨r, rest, hh.symm.trans hr, (s.heldReady_iff r).mpr fun m hm x hx => ?_⟩
  exact (t.heldReady_iff r).mp hready m hm x (by rw [hq]; simp [hx])

theorem State.canIssue_iff (s : State) :
    s.canIssue = true ↔
      ∃ before e after, s.queue = before ++ e :: after ∧ (∀ x ∈ before, x.state = .issued) ∧ e.state = .queued ∧
        s.issuedCount < 4 ∧ s.heldBack e = false := by
  unfold State.canIssue
  cases h : splitQueued s.queue with
  | none =>
    simp only [Bool.false_eq_true, false_iff]
    rintro ⟨before, e, after, hq, hb, he, -⟩
    rw [splitQueued_eq_some.mpr ⟨hq, hb, he⟩] at h
    cases h
  | some out =>
    obtain ⟨before, e, after⟩ := out
    simp only [Bool.and_eq_true, decide_eq_true_eq, Bool.not_eq_true']
    constructor
    · rintro ⟨h1, h2⟩
      obtain ⟨hq, hb, he⟩ := splitQueued_eq_some.mp h
      exact ⟨before, e, after, hq, hb, he, h1, h2⟩
    · rintro ⟨before', e', after', hq, hb, he, h1, h2⟩
      rw [splitQueued_eq_some.mpr ⟨hq, hb, he⟩] at h
      cases h
      exact ⟨h1, h2⟩

theorem State.heldBack_congr {s t : State} (h : t.held = s.held) (e : QueueEntry) : t.heldBack e = s.heldBack e := by
  rw [State.heldBack, State.heldBack, h]

theorem State.issuedCount_append {s t : State} {e : QueueEntry} (hq : t.queue = s.queue ++ [e])
    (he : e.state = .queued) : t.issuedCount = s.issuedCount := by
  simp [State.issuedCount, hq, he]

/-- The new entry is issued when every older one is, fewer than four are, and no earlier held read overlaps it; an older
QUEUED entry that could not be issued still cannot (R143). -/
theorem State.issueOne_append {s t : State} {e : QueueEntry} (hq : t.queue = s.queue ++ [e]) (hh : t.held = s.held)
    (he : e.state = .queued) (h : s.canIssue = false) :
    if s.queue.all (fun x => x.state == .issued) && decide (s.issuedCount < 4) && !s.heldBack e then
      t.issueOne =
        { t with
          queue := s.queue ++ [{ e with state := .issued }]
          presented := t.presented ++ [.write e.addr e.lanes e.tag] }
    else t.canIssue = false := by
  have hcount := State.issuedCount_append hq he
  split
  · rename_i hc
    simp only [Bool.and_eq_true, List.all_eq_true, beq_iff_eq, decide_eq_true_eq, Bool.not_eq_true'] at hc
    obtain ⟨⟨hall, hlt⟩, hback⟩ := hc
    have hsplit : splitQueued t.queue = some (s.queue, e, []) := splitQueued_eq_some.mpr ⟨hq, hall, he⟩
    have hcond : t.issuedCount < Config.issueLimit ∧ t.heldBack e = false :=
      ⟨hcount ▸ hlt, (State.heldBack_congr hh e).trans hback⟩
    simp only [State.issueOne, hsplit]
    rw [if_pos hcond]
  · rename_i hc
    rw [← Bool.not_eq_true, State.canIssue_iff]
    rintro ⟨before, x, after, hx, hb, hxq, hlt, hback⟩
    rw [hcount] at hlt
    rw [State.heldBack_congr hh] at hback
    rcases List.eq_nil_or_concat after with rfl | ⟨after', y, rfl⟩
    · obtain ⟨hbefore, hxe⟩ := List.append_inj' (hq.symm.trans hx) rfl
      obtain rfl : e = x := (List.cons.inj hxe).1
      rw [← hbefore] at hb
      refine hc ?_
      simp only [Bool.and_eq_true, List.all_eq_true, beq_iff_eq, decide_eq_true_eq, Bool.not_eq_true']
      exact ⟨⟨hb, hlt⟩, hback⟩
    · have hold : s.queue = before ++ x :: after' := by
        refine (List.append_inj' (t₁ := [e]) (t₂ := [y]) ?_ rfl).1
        rw [← hq, hx]
        simp
      have : s.canIssue = true := s.canIssue_iff.mpr ⟨before, x, after', hold, hb, hxq, hlt, hback⟩
      rw [h] at this
      cases this

theorem State.canIssue_of_allIssued {s : State} (h : ∀ x ∈ s.queue, x.state = .issued) : s.canIssue = false := by
  rw [← Bool.not_eq_true, State.canIssue_iff]
  rintro ⟨before, e, after, hq, -, he, -⟩
  rw [h e (by rw [hq]; simp)] at he
  cases he

/-- What follows the joining of an entry where nothing else could move: the entry is issued at once, or it waits. -/
theorem State.advance_append {s t : State} {e : QueueEntry} (hq : t.queue = s.queue ++ [e]) (hh : t.held = s.held)
    (he : e.state = .queued) (hr : s.canRelease = false) (hi : s.canIssue = false) :
    t.advance =
      if s.queue.all (fun x => x.state == .issued) && decide (s.issuedCount < 4) && !s.heldBack e then
        { t with
          queue := s.queue ++ [{ e with state := .issued }]
          presented := t.presented ++ [.write e.addr e.lanes e.tag] }
      else t := by
  have hone := State.issueOne_append hq hh he hi
  have hrel := State.canRelease_of_append hq hh hr
  split at hone
  · rename_i hc
    have hall : ∀ x ∈ s.queue, x.state = .issued := by
      simp only [Bool.and_eq_true, List.all_eq_true, beq_iff_eq] at hc
      exact hc.1.1
    have hthen : t.issueOne.canIssue = false := by
      refine State.canIssue_of_allIssued fun x hx => ?_
      rw [hone] at hx
      rcases List.mem_append.mp hx with hx | hx
      · exact hall x hx
      · rw [List.mem_singleton.mp hx]
    rw [State.advance, repeatStep_fixed (State.releaseOne_blocked hrel), Config.issueLimit, repeatStep,
      repeatStep_fixed (State.issueOne_blocked hthen), hone, if_pos hc]
  · rename_i hc
    rw [State.advance_blocked hrel hone, if_neg hc]

/-! ### UPSTREAM_WRITE (R142) -/

/-- A request that arrives where nothing is left to happen and that can be taken: it is taken, and releases and issues
follow. -/
theorem State.arrive_taken {s : State} {q : UpstreamRequest} (hs : s.Released) (hset : s.Settled) (hu : s.upstream = [])
    (hc : s.canTake q = true) : s.arrive q = ((s.withUpstream [q]).takeRequest q).advance.withUpstream [] := by
  rcases hset with hset | ⟨hr, hi, -⟩
  · rw [hs] at hset; cases hset
  · have hadv : (s.withUpstream [q]).advance = s.withUpstream [q] := State.advance_blocked hr hi
    have harr : s.arrive q = (s.withUpstream (s.upstream ++ [q])).settle := by
      unfold State.arrive
      exact if_neg (by rw [hs]; decide)
    rw [harr, hu, List.nil_append, State.settle, hadv]
    exact State.takeWaiting_takes (rest := []) hc

/-- The entry that a write becomes (R9, R142). -/
def State.entryFor (s : State) (w : WriteRequest) : QueueEntry :=
  ⟨s.nextSeq, w.addr, (s.classifyWrite w).2.lanes, w.tag, (s.classifyWrite w).2.owner, .queued⟩

/-- What the queueing of a write does: the surface table's part, the new entry, and the answer or its place. -/
theorem State.enqueueWrite_eq (s : State) (w : WriteRequest) :
    s.enqueueWrite w =
      { (s.classifyWrite w).1 with
        nextSeq := s.nextSeq + 1
        queue := s.queue ++ [s.entryFor w]
        places := if s.needsPlace w.tag then s.places ++ [⟨w.tag, .ready .posted⟩] else s.places
        answers := if s.needsPlace w.tag then s.answers else s.answers ++ [⟨w.tag, .posted⟩] } := by
  obtain ⟨hqueue, hnext, -, hplaces, -, -, hanswers⟩ := (s.onlyTableAndNotices_classifyWrite w).traffic
  have hneeds : (s.classifyWrite w).1.needsPlace w.tag = s.needsPlace w.tag := by
    rw [State.needsPlace, State.needsPlace, hplaces]
  unfold State.enqueueWrite
  dsimp only
  rw [hqueue, hnext]
  rcases State.oweAnswer_cases
      ({ (s.classifyWrite w).1 with queue := s.queue ++ [s.entryFor w], nextSeq := s.nextSeq + 1 } : State) w.tag
      .posted with ⟨hn, e⟩ | ⟨hn, e⟩ <;> refine e.trans ?_ <;> rw [← hneeds]
  · rw [if_pos (by exact hn), if_pos (by exact hn), ← hplaces, ← hanswers]
  · rw [if_neg (by rw [Bool.not_eq_true]; exact hn), if_neg (by rw [Bool.not_eq_true]; exact hn), ← hplaces, ← hanswers]

theorem State.enqueueWrite_withUpstream (s : State) (us : List UpstreamRequest) (w : WriteRequest) :
    (s.withUpstream us).enqueueWrite w = (s.enqueueWrite w).withUpstream us := by
  rw [State.enqueueWrite_eq, State.enqueueWrite_eq, State.entryFor, State.classifyWrite_withUpstream]
  rfl

theorem State.takeRequest_write {s : State} {w : WriteRequest} (hm : malformedWrite w = false)
    (ha : anyEnabled w.lanes = true) : s.takeRequest (.write w) = s.enqueueWrite w := by
  simp only [State.takeRequest, hm, ha, Bool.false_eq_true, if_false, if_true]

theorem State.canTake_write {s : State} {w : WriteRequest} (hm : malformedWrite w = false)
    (ha : anyEnabled w.lanes = true) (hq : s.queue.length < 16)
    (hp : s.needsPlace w.tag = true → s.places.length < 32) : s.canTake (.write w) = true := by
  have hfits : s.answerFits w.tag = true := by
    cases hn : s.needsPlace w.tag
    · simp [State.answerFits, hn]
    · simp [State.answerFits, hp hn]
  simp [State.canTake, hm, ha, hq, hfits]

/-- Settles O46: the write is classified, joins the queue, is answered, and is issued if R143 lets it be. -/
theorem upstreamWritePosted : Obligations.UpstreamWritePosted := by
  intro s w hs hset hu hmal hany hroom hplace c entry issues
  refine ⟨_, rfl, ?_⟩
  obtain ⟨hr, hi⟩ : s.canRelease = false ∧ s.canIssue = false := by
    rcases hset with h | ⟨h1, h2, -⟩
    · rw [hs] at h; cases h
    · exact ⟨h1, h2⟩
  obtain ⟨-, -, hheld, -, hupstream, hpresented, -⟩ :
      c.1.queue = s.queue ∧ c.1.nextSeq = s.nextSeq ∧ c.1.held = s.held ∧ c.1.places = s.places ∧
        c.1.upstream = s.upstream ∧ c.1.presented = s.presented ∧ c.1.answers = s.answers :=
    (s.onlyTableAndNotices_classifyWrite w).traffic
  have hentry : s.entryFor w = entry := rfl
  have heq := s.enqueueWrite_eq w
  have hadv : ((s.enqueueWrite w).withUpstream [.write w]).advance = _ :=
    State.advance_append (s := s) (e := entry) (by rw [heq]; rfl) (by rw [heq]; exact hheld) rfl hr hi
  rw [State.arrive_taken hs hset hu (State.canTake_write hmal hany hroom hplace), State.takeRequest_write hmal hany,
    State.enqueueWrite_withUpstream, hadv, heq, hentry, ← hpresented,
    ← hupstream.trans hu]
  change (if issues = true then _ else _ : State).withUpstream c.1.upstream = _
  cases issues <;> rfl

end Sys2Proof.Machine
end

section
/-! The tracking of one portion (R22 to R25): what a frame-start event leaves of the record, the pool and the notices
in each state of the surface, and which bytes and which owner the portion gives. -/

namespace Sys2Proof.Machine

/-! ### What a tracked portion gives the write (R9, R115, R117) -/

theorem State.ownerAfter_tracked {s : State} {p : Portion} {n : SurfaceId} {k : BufferId} {d : SurfaceDef}
    (h : s.Tracks p n k d) (t : State) : s.ownerAfter t p = some ⟨n, (t.surf n).frame.number⟩ := by
  rw [State.ownerAfter, State.trackedOn_of_tracks h, Option.map_some]

theorem State.stampAfter_drawing {s : State} {n : SurfaceId} (h : (s.surf n).drawing = true) (p : Portion)
    (k : BufferId) (d : SurfaceDef) :
    s.stampAfter p ⟨n, k⟩ d = if s.bypass then p.lanes else stampPortion s n d (p.offset d k) p.lanes := by
  cases hb : s.bypass
  · simp only [State.stampAfter, h, hb, Bool.not_false, Bool.and_self, if_true]
    rfl
  · simp only [State.stampAfter, hb, Bool.not_true, Bool.and_false, Bool.false_eq_true, if_false, if_true]

theorem State.stampAfter_notDrawing {s : State} {n : SurfaceId} (h : (s.surf n).drawing = false) (p : Portion)
    (k : BufferId) (d : SurfaceDef) : s.stampAfter p ⟨n, k⟩ d = p.lanes := by
  simp only [State.stampAfter, h, Bool.false_and, Bool.false_eq_true, if_false]

/-- A tracked portion that meets a condition of R23 starts a frame. -/
theorem State.handlePortion_starts {s : State} {p : Portion} {n : SurfaceId} {k : BufferId} {d : SurfaceDef}
    (h : s.Tracks p n k d) (hst : (s.surf n).frame.Starts d k (p.lowRow d k)) :
    s.handlePortion p =
      (s.startFrame n d k (p.highRow d k), (s.startFrame n d k (p.highRow d k)).stampAfter p ⟨n, k⟩ d) := by
  rcases s.trackPortion_cases n d k (p.lowRow d k) (p.highRow d k) with ⟨-, e⟩ | ⟨hn, -⟩
  · rw [State.handlePortion_tracked h, e]
  · exact absurd hst hn

/-- A tracked portion that meets no condition of R23 continues the frame. -/
theorem State.handlePortion_continues {s : State} {p : Portion} {n : SurfaceId} {k : BufferId} {d : SurfaceDef}
    (h : s.Tracks p n k d) (hst : ¬(s.surf n).frame.Starts d k (p.lowRow d k)) :
    s.handlePortion p =
      (s.continueFrame n (p.highRow d k), (s.continueFrame n (p.highRow d k)).stampAfter p ⟨n, k⟩ d) := by
  rcases s.trackPortion_cases n d k (p.lowRow d k) (p.highRow d k) with ⟨hs, -⟩ | ⟨-, e⟩
  · exact absurd hs hst
  · rw [State.handlePortion_tracked h, e]

/-! ### A portion that starts no frame (R24) -/

theorem State.continueFrame_tableAfter (s : State) (n : SurfaceId) (hi : Nat) :
    s.TableAfter (s.continueFrame n hi) n
      ((s.surf n).withFrame { (s.surf n).frame with highWater := max (s.surf n).frame.highWater hi }) :=
  s.tableAfter_setSurf n _

/-- Settles O40: the high-water row is raised, the surface draws as before, and so the portion is stamped. -/
theorem frameContinues : Obligations.FrameContinues := by
  intro s p n k d h hst t
  have htable : t.surf n = _ := (s.continueFrame_tableAfter n (p.highRow d k)).1
  have hdraw : (t.surf n).drawing = true := by
    obtain ⟨-, -, hstate, -⟩ := h
    rw [htable]
    exact (Surface.drawing_iff _).mpr hstate
  refine ⟨?_, ?_⟩
  · rw [State.handlePortion_continues h hst]
    exact congrArg (Prod.mk t) (State.stampAfter_drawing hdraw p k d)
  · rw [State.ownerAfter_tracked h, htable]
    rfl

/-! ### The steps of a frame-start event (R25) -/

/-- The record of a surface on which a portion on buffer `k`, up to row `hi`, begins a frame. -/
def State.begunRecord (s : State) (n : SurfaceId) (k : BufferId) (hi : Nat) : Surface :=
  (s.surf n).withFrame ((s.surf n).frame.started k hi s.clock)

theorem State.beginFrame_tableAfter (s : State) (n : SurfaceId) (k : BufferId) (hi : Nat) :
    s.TableAfter (s.beginFrame n k hi) n (s.begunRecord n k hi) :=
  s.tableAfter_setSurf n _

theorem State.beginFrame_surf (s : State) (n : SurfaceId) (k : BufferId) (hi : Nat) :
    (s.beginFrame n k hi).surf n = s.begunRecord n k hi := (s.beginFrame_tableAfter n k hi).1

theorem State.commitAtStart_pending {s : State} {n : SurfaceId} (hl : (s.surf n).state = .live)
    (hp : (s.surf n).commitPending = true) :
    s.commitAtStart n = (s.applyCommit n).post (.committed n (s.surf n).frame.number) :=
  if_pos ⟨hl, hp⟩

theorem State.commitAtStart_notPending {s : State} {n : SurfaceId} (hp : (s.surf n).commitPending ≠ true) :
    s.commitAtStart n = s :=
  if_neg fun h => hp h.2

/-- FRAME is posted where the frame notices field is on, and nothing else changes (R28). -/
theorem State.noticeAtStart_live {s : State} {n : SurfaceId} (hl : (s.surf n).state = .live) (d : SurfaceDef)
    (k : BufferId) :
    s.noticeAtStart n d k =
      { s with
        notices := postAll s.notices (if d.frameNotices = true then [.frame n (s.surf n).frame.number k] else []) } := by
  by_cases hf : d.frameNotices = true
  · rw [State.noticeAtStart, if_pos ⟨hl, hf⟩, if_pos hf]
    rfl
  · rw [State.noticeAtStart, if_neg fun h => hf h.2, if_neg hf]
    rfl

theorem State.startFrame_live {s : State} {n : SurfaceId} (hl : (s.surf n).state = .live) (d : SurfaceDef)
    (k : BufferId) (hi : Nat) :
    s.startFrame n d k hi = ((s.beginFrame n k hi).commitAtStart n).noticeAtStart n d k := by
  have hb : ((s.beginFrame n k hi).surf n).state = .live := by rw [s.beginFrame_surf]; exact hl
  rw [State.startFrame, if_neg (by rw [hb]; decide)]

theorem State.startFrame_retiring {s : State} {n : SurfaceId} (hr : (s.surf n).state = .retiring) (d : SurfaceDef)
    (k : BufferId) (hi : Nat) : s.startFrame n d k hi = (s.beginFrame n k hi).completeRetirement n false := by
  have hb : ((s.beginFrame n k hi).surf n).state = .retiring := by rw [s.beginFrame_surf]; exact hr
  rw [State.startFrame, if_pos hb]

/-! ### A frame-start event as a whole, by the state of the surface (R25, R64) -/

/-- LIVE with a commit pending: the commit is applied to the begun record, then COMMITTED and FRAME are posted. -/
theorem State.startFrame_pending {s : State} {n : SurfaceId} (hl : (s.surf n).state = .live)
    (hp : (s.surf n).commitPending = true) (d : SurfaceDef) (k : BufferId) (hi : Nat) :
    s.TableAfter (s.startFrame n d k hi) n (s.begunRecord n k hi).committed ∧
      s.CountsMoved (s.startFrame n d k hi) (s.surf n).active [] ∧
      (s.startFrame n d k hi).notices =
        postAll s.notices
          ([.committed n ((s.surf n).frame.number + 1)]
            ++ if d.frameNotices = true then [.frame n ((s.surf n).frame.number + 1) k] else []) := by
  have hbegun := s.beginFrame_surf n k hi
  obtain ⟨-, hcounts, -⟩ := (s.beginFrame n k hi).applyCommit_spec n
  have htable : s.TableAfter ((s.beginFrame n k hi).applyCommit n) n (s.begunRecord n k hi).committed := by
    have h := (s.beginFrame_tableAfter n k hi).trans ((s.beginFrame n k hi).applyCommit_tableAfter n)
    rwa [hbegun] at h
  rw [hbegun] at hcounts
  have hcommit := State.commitAtStart_pending (s := s.beginFrame n k hi) (n := n) (by rw [hbegun]; exact hl)
    (by rw [hbegun]; exact hp)
  have hsurf : ((s.beginFrame n k hi).commitAtStart n).surf n = (s.begunRecord n k hi).committed := by
    rw [hcommit]; exact htable.1
  rw [State.startFrame_live hl, State.noticeAtStart_live (by rw [hsurf]; exact hl), hsurf, hcommit, hbegun]
  exact ⟨htable, hcounts, rfl⟩

/-- LIVE with no commit pending: the frame is begun, then FRAME is posted. -/
theorem State.startFrame_notPending {s : State} {n : SurfaceId} (hl : (s.surf n).state = .live)
    (hp : (s.surf n).commitPending ≠ true) (d : SurfaceDef) (k : BufferId) (hi : Nat) :
    s.TableAfter (s.startFrame n d k hi) n (s.begunRecord n k hi) ∧
      s.CountsMoved (s.startFrame n d k hi) [] [] ∧
      (s.startFrame n d k hi).notices =
        postAll s.notices (if d.frameNotices = true then [.frame n ((s.surf n).frame.number + 1) k] else []) := by
  have hbegun := s.beginFrame_surf n k hi
  rw [State.startFrame_live hl, State.commitAtStart_notPending (by rw [hbegun]; exact hp),
    State.noticeAtStart_live (by rw [hbegun]; exact hl), hbegun]
  exact ⟨s.beginFrame_tableAfter n k hi, ⟨rfl, fun _ => rfl⟩, rfl⟩

/-- RETIRING: the retirement of the begun record completes, and RETIRED is posted. -/
theorem State.startFrame_retires {s : State} {n : SurfaceId} (hr : (s.surf n).state = .retiring) (d : SurfaceDef)
    (k : BufferId) (hi : Nat) :
    s.TableAfter (s.startFrame n d k hi) n (s.begunRecord n k hi).retired ∧
      s.CountsMoved (s.startFrame n d k hi) (s.surf n).active [] ∧
      (s.startFrame n d k hi).notices = postTo s.notices (.retired n ((s.surf n).frame.number + 1) false) := by
  obtain ⟨hnotices, -, hcounts, -⟩ := (s.beginFrame n k hi).completeRetirement_spec n false
  have htable := (s.beginFrame_tableAfter n k hi).trans ((s.beginFrame n k hi).completeRetirement_tableAfter n false)
  rw [s.beginFrame_surf] at hnotices hcounts htable
  rw [State.startFrame_retiring hr]
  exact ⟨htable, hcounts, hnotices⟩

/-- Whatever else a frame-start event does, it leaves the number of the frame begun (R25, step 2). -/
theorem State.startFrame_number {s : State} {n : SurfaceId}
    (h : (s.surf n).state = .live ∨ (s.surf n).state = .retiring) (d : SurfaceDef) (k : BufferId) (hi : Nat) :
    ((s.startFrame n d k hi).surf n).frame.number = (s.surf n).frame.number + 1 := by
  rcases h with hl | hr
  · by_cases hp : (s.surf n).commitPending = true
    · rw [(State.startFrame_pending hl hp d k hi).1.1]; rfl
    · rw [(State.startFrame_notPending hl hp d k hi).1.1]; rfl
  · rw [(State.startFrame_retires hr d k hi).1.1]; rfl

/-- A LIVE surface is LIVE after its frame-start event. -/
theorem State.startFrame_staysLive {s : State} {n : SurfaceId} (hl : (s.surf n).state = .live) (d : SurfaceDef)
    (k : BufferId) (hi : Nat) : ((s.startFrame n d k hi).surf n).state = .live := by
  by_cases hp : (s.surf n).commitPending = true
  · rw [(State.startFrame_pending hl hp d k hi).1.1]; exact hl
  · rw [(State.startFrame_notPending hl hp d k hi).1.1]; exact hl

/-- An event that touches only the table and the notices, with the notices it leaves written out. -/
theorem State.OnlyTableAndNotices.withNotices {s t : State} (h : s.OnlyTableAndNotices t) {q : List Notice}
    (hq : t.notices = q) :
    t = { s with surfaces := t.surfaces, freeCount := t.freeCount, slots := t.slots, notices := q } := by
  rw [← hq]
  exact h

theorem State.OnlyTableAndNotices.bypass {s t : State} (h : s.OnlyTableAndNotices t) : t.bypass = s.bypass := by
  rw [State.OnlyTableAndNotices] at h
  rw [h]

/-- Settles O39: by the state of the surface, and on a LIVE one by whether a commit is pending. -/
theorem frameStartEffects : Obligations.FrameStartEffects := by
  intro s p n k d h hst number frame t
  have honly : s.OnlyTableAndNotices (s.startFrame n d k (p.highRow d k)) := s.onlyTableAndNotices_startFrame n d k _
  have ⟨_, _, hstate, _⟩ := h
  simp only [t, State.handlePortion_starts h hst]
  refine ⟨?_, fun hl => ?_, fun hr => ?_⟩
  · rw [State.ownerAfter_tracked h, State.startFrame_number hstate]
  · have hdraw := Surface.drawing_of_live (State.startFrame_staysLive hl d k (p.highRow d k))
    have hbytes := State.stampAfter_drawing hdraw p k d
    rw [honly.bypass] at hbytes
    by_cases hp : (s.surf n).commitPending = true
    · obtain ⟨htable, hcounts, hnotices⟩ := State.startFrame_pending hl hp d k (p.highRow d k)
      rw [if_pos hp, if_pos hp]
      exact ⟨⟨htable, hcounts⟩, honly.withNotices hnotices, hbytes⟩
    · obtain ⟨htable, hcounts, hnotices⟩ := State.startFrame_notPending hl hp d k (p.highRow d k)
      rw [if_neg hp, if_neg hp]
      exact ⟨⟨htable, hcounts⟩, honly.withNotices hnotices, hbytes⟩
  · obtain ⟨htable, hcounts, hnotices⟩ := State.startFrame_retires hr d k (p.highRow d k)
    have hgone : ((s.startFrame n d k (p.highRow d k)).surf n).drawing = false :=
      Surface.not_drawing_of_defined (by rw [htable.1]; rfl)
    exact ⟨htable, hcounts, honly.withNotices hnotices, State.stampAfter_notDrawing hgone p k d⟩

end Sys2Proof.Machine
end

section
/-! The elementary changes of the lists, the pool and the reference counts (R38 to R40, R44, R90), and of the bypass
switch (R55, R153): what each keeps. An event is a run of them. -/

namespace Sys2Proof.Machine

/-- The records on the two lists of a surface (R38, R45). -/
def Surface.items (r : Surface) : List Item := r.staged ++ r.active

/-- `t` is `s` after one exchange of records: of the items on the lists of surface `n`, those in `kept` stay, those in
`freed` go back to the pool, and records for `taken` are allocated (R39, R40, R44). A REDACT item that is taken while
bypass is on stands on one of the surface's lists already (R55). -/
structure State.Exchange (s t : State) (n : SurfaceId) (kept freed taken : List Item) : Prop where
  others : ∀ m : SurfaceId, m ≠ n → t.surf m = s.surf m
  before : (s.surf n).items.Perm (kept ++ freed)
  after  : (t.surf n).items.Perm (kept ++ taken)
  room   : taken.length ≤ s.freeCount + freed.length
  free   : t.freeCount = s.freeCount + freed.length - taken.length
  counts : ∀ k : SlotId, (t.slot k).refCount = (s.slot k).refCount - namesIn k freed + namesIn k taken
  bypass : t.bypass = s.bypass
  redact : s.bypass = true → ∀ it ∈ taken, it.isRedact = true → it ∈ (s.surf n).items

/-- `t` and `s` agree on the lists, the pool and the reference counts; the bypass switch may differ. -/
structure State.SameLists (s t : State) : Prop where
  surfaces  : t.surfaces = s.surfaces
  freeCount : t.freeCount = s.freeCount
  counts    : ∀ k : SlotId, (t.slot k).refCount = (s.slot k).refCount

/-- One elementary change of what the lists, the pool, the reference counts and the bypass switch hold. -/
inductive State.ListChange (s t : State) : Prop where
  | exchange {n : SurfaceId} {kept freed taken : List Item} (h : s.Exchange t n kept freed taken)
  | same (h : s.SameLists t) (hb : t.bypass = s.bypass)
  /-- SET BYPASS, past its check (R153). -/
  | switched (h : s.SameLists t) (hr : t.bypass = true → ∀ n, ∀ it ∈ (s.surf n).items, it.isRedact = false)
  /-- A reset of the surfaces, the pool and the counts (R41, R176). -/
  | cleared (hs : ∀ n, (t.surf n).items = []) (hf : t.freeCount = 96) (hc : ∀ k : SlotId, (t.slot k).refCount = 0)
      (hb : t.bypass = false)

/-! ### Counting over the surfaces -/

theorem sum_surfaceIds (f : SurfaceId → Nat) : (surfaceIds.map f).sum = ∑ m, f m := by
  simp [surfaceIds, Fin.sum_univ_eight, Nat.add_assoc]

/-- Two counts that agree on every surface but one. -/
theorem sum_surfaceIds_off {f g : SurfaceId → Nat} {n : SurfaceId} (h : ∀ m, m ≠ n → g m = f m) :
    ∃ rest, (surfaceIds.map f).sum = f n + rest ∧ (surfaceIds.map g).sum = g n + rest := by
  simp only [sum_surfaceIds]
  refine ⟨∑ m ∈ Finset.univ.erase n, f m, (Finset.add_sum_erase _ f (Finset.mem_univ n)).symm, ?_⟩
  rw [← Finset.add_sum_erase _ g (Finset.mem_univ n)]
  exact congrArg _ (Finset.sum_congr rfl fun m hm => h m (Finset.ne_of_mem_erase hm))

theorem State.itemsHeld_eq (s : State) : s.itemsHeld = (surfaceIds.map fun n => (s.surf n).items.length).sum := by
  simp only [State.itemsHeld, Surface.items, List.length_append]

theorem State.namingCount_eq (s : State) (k : SlotId) :
    s.namingCount k = (surfaceIds.map fun n => namesIn k (s.surf n).items).sum := by
  simp only [State.namingCount, Surface.items, namesIn_append]

theorem namesIn_perm {xs ys : List Item} (h : xs.Perm ys) (k : SlotId) : namesIn k xs = namesIn k ys :=
  h.countP_eq _

/-! ### Each elementary change keeps the invariants -/

theorem State.Exchange.poolBalanced {s t : State} {n : SurfaceId} {kept freed taken : List Item}
    (h : s.Exchange t n kept freed taken) (hp : s.PoolBalanced) : t.PoolBalanced := by
  obtain ⟨rest, hs, ht⟩ := sum_surfaceIds_off (f := fun m => (s.surf m).items.length)
    (g := fun m => (t.surf m).items.length) fun m hm => by rw [h.others m hm]
  have hb := h.before.length_eq
  have ha := h.after.length_eq
  have hroom := h.room
  rw [List.length_append] at hb ha
  rw [State.PoolBalanced, State.itemsHeld_eq] at hp ⊢
  rw [h.free]
  omega

theorem State.Exchange.countsAgree {s t : State} {n : SurfaceId} {kept freed taken : List Item}
    (h : s.Exchange t n kept freed taken) (hc : s.CountsAgree) : t.CountsAgree := by
  intro k
  obtain ⟨rest, hs, ht⟩ := sum_surfaceIds_off (f := fun m => namesIn k (s.surf m).items)
    (g := fun m => namesIn k (t.surf m).items) fun m hm => by rw [h.others m hm]
  have hb := namesIn_perm h.before k
  have ha := namesIn_perm h.after k
  have hk := hc k
  rw [namesIn_append] at hb ha
  rw [State.namingCount_eq] at hk ⊢
  rw [h.counts]
  omega

theorem State.SameLists.surf {s t : State} (h : s.SameLists t) (n : SurfaceId) : t.surf n = s.surf n :=
  State.surf_congr h.surfaces n

/-- The pool is balanced and every reference count exact (R38, R90). -/
def State.PoolExact (s : State) : Prop := s.PoolBalanced ∧ s.CountsAgree

theorem State.SameLists.poolExact {s t : State} (h : s.SameLists t) (hp : s.PoolExact) : t.PoolExact := by
  obtain ⟨hpool, hcounts⟩ := hp
  refine ⟨?_, fun k => ?_⟩
  · rw [State.PoolBalanced, State.itemsHeld_eq] at hpool ⊢
    simpa only [h.surf, h.freeCount] using hpool
  · have hk := hcounts k
    rw [State.namingCount_eq] at hk ⊢
    simpa only [h.surf, h.counts] using hk

theorem State.ListChange.poolExact {s t : State} (h : s.ListChange t) (hp : s.PoolExact) : t.PoolExact := by
  cases h with
  | exchange h => exact ⟨h.poolBalanced hp.1, h.countsAgree hp.2⟩
  | same h => exact h.poolExact hp
  | switched h => exact h.poolExact hp
  | cleared hs hf hc =>
    refine ⟨?_, fun k => ?_⟩
    · simp [State.PoolBalanced, State.itemsHeld_eq, hs, hf, surfaceIds]
    · simp [State.namingCount_eq, hs, hc, namesIn_nil, surfaceIds]

theorem State.bypassSafe_iff (s : State) :
    s.BypassSafe ↔ (s.bypass = true → ∀ n, ∀ it ∈ (s.surf n).items, it.isRedact = false) := by
  refine imp_congr_right fun _ => forall_congr' fun n => ?_
  simp only [Surface.items, List.forall_mem_append, List.any_eq_false, Bool.not_eq_true]

theorem State.Exchange.bypassSafe {s t : State} {n : SurfaceId} {kept freed taken : List Item}
    (h : s.Exchange t n kept freed taken) (hs : s.BypassSafe) : t.BypassSafe := by
  rw [State.bypassSafe_iff] at hs ⊢
  intro hon m it hit
  rw [h.bypass] at hon
  by_cases hm : m = n
  · subst hm
    rcases List.mem_append.mp (h.after.mem_iff.mp hit) with hkept | htaken
    · exact hs hon m it (h.before.mem_iff.mpr (List.mem_append_left _ hkept))
    · by_contra hred
      exact hred (hs hon m it (h.redact hon it htaken (by simpa using hred)))
  · rw [h.others m hm] at hit
    exact hs hon m it hit

theorem State.ListChange.bypassSafe {s t : State} (h : s.ListChange t) (hs : s.BypassSafe) : t.BypassSafe := by
  cases h with
  | exchange h => exact h.bypassSafe hs
  | same h hb =>
    intro hon n
    rw [h.surf n]
    exact hs (hb ▸ hon) n
  | switched h hr =>
    refine t.bypassSafe_iff.mpr fun hon n => ?_
    rw [h.surf n]
    exact hr hon n
  | cleared _ _ _ hb => exact fun hon => absurd hon (by simp [hb])

/-! ### Runs of elementary changes -/

/-- `t` comes from `s` by elementary changes, one after another. -/
abbrev State.ListPath : State → State → Prop := Relation.ReflTransGen State.ListChange

theorem State.ListChange.path {s t : State} (h : s.ListChange t) : s.ListPath t := .single h

theorem State.ListPath.poolExact {s t : State} (h : s.ListPath t) (hp : s.PoolExact) : t.PoolExact := by
  induction h with
  | refl => exact hp
  | tail _ hstep ih => exact hstep.poolExact ih

theorem State.ListPath.bypassSafe {s t : State} (h : s.ListPath t) (hs : s.BypassSafe) : t.BypassSafe := by
  induction h with
  | refl => exact hs
  | tail _ hstep ih => exact hstep.bypassSafe ih

/-- An event that leaves the table, the pool, the slots and the bypass switch alone. -/
theorem State.listPath_of_same {s t : State} (hs : t.surfaces = s.surfaces) (hf : t.freeCount = s.freeCount)
    (hk : t.slots = s.slots) (hb : t.bypass = s.bypass) : s.ListPath t :=
  .single (.same ⟨hs, hf, fun k => by rw [State.slot_congr hk k]⟩ hb)

/-- One record changes and holds the same items as before, in any order. -/
theorem State.listChange_setSurf (s : State) {n : SurfaceId} {r : Surface} (h : r.items.Perm (s.surf n).items) :
    s.ListChange (s.setSurf n r) := by
  refine .exchange (n := n) (kept := (s.surf n).items) (freed := []) (taken := []) ?_
  exact
    { others := fun m hm => State.surf_setSurf_ne s n m r hm.symm
      before := by simp
      after := by simpa using h
      room := by simp
      free := by simp
      counts := fun k => by simp [namesIn_nil]
      bypass := rfl
      redact := by simp }

/-- One record changes and keeps both its lists. -/
theorem State.listPath_setSurf (s : State) {n : SurfaceId} {r : Surface} (hs : r.staged = (s.surf n).staged)
    (ha : r.active = (s.surf n).active) : s.ListPath (s.setSurf n r) :=
  (s.listChange_setSurf (by simp [Surface.items, hs, ha])).path

/-- One record changes as the counts move: what is freed and what is taken are the items it loses and gains. -/
theorem State.listChange_of_moved {s t : State} {n : SurfaceId} {r : Surface} {kept freed taken : List Item}
    (ht : s.TableAfter t n r) (hc : s.CountsMoved t freed taken) (hbefore : (s.surf n).items.Perm (kept ++ freed))
    (hafter : r.items.Perm (kept ++ taken)) (hroom : taken.length ≤ s.freeCount + freed.length)
    (hb : t.bypass = s.bypass)
    (hr : s.bypass = true → ∀ it ∈ taken, it.isRedact = true → it ∈ (s.surf n).items) : s.ListChange t :=
  .exchange
    { others := ht.2
      before := hbefore
      after := by rw [ht.1]; exact hafter
      room := hroom
      free := hc.1
      counts := fun k => by rw [hc.2 k]
      bypass := hb
      redact := hr }

/-- Records are freed and none is allocated. -/
theorem State.listChange_of_freed {s t : State} {n : SurfaceId} {r : Surface} {freed : List Item}
    (ht : s.TableAfter t n r) (hc : s.CountsMoved t freed []) (hbefore : (s.surf n).items.Perm (r.items ++ freed))
    (hb : t.bypass = s.bypass) : s.ListChange t :=
  State.listChange_of_moved ht hc hbefore (by simp) (by simp) hb (by simp)

end Sys2Proof.Machine
end

section
/-! The events that no command gives as runs of elementary changes: commits, retirements and ticks, the taking of a write,
and the pass-through unit, which leaves the lists alone. -/

namespace Sys2Proof.Machine

/-! ### Commits, retirements and deadlines (R14, R15, R63 to R66) -/

theorem State.listPath_post (s : State) (x : Notice) : s.ListPath (s.post x) := State.listPath_of_same rfl rfl rfl rfl

theorem State.listPath_applyCommit (s : State) (n : SurfaceId) : s.ListPath (s.applyCommit n) := by
  obtain ⟨-, hcounts, -⟩ := s.applyCommit_spec n
  refine (State.listChange_of_freed (s.applyCommit_tableAfter n) hcounts ?_ (by simp)).path
  simp [Surface.items, Surface.committed]

theorem State.listPath_completeRetirement (s : State) (n : SurfaceId) (forced : Bool) :
    s.ListPath (s.completeRetirement n forced) := by
  obtain ⟨-, -, hcounts, -⟩ := s.completeRetirement_spec n forced
  refine (State.listChange_of_freed (s.completeRetirement_tableAfter n forced) hcounts ?_ (by simp)).path
  simp [Surface.items, Surface.retired]

theorem State.listPath_forceCommit (s : State) (n : SurfaceId) : s.ListPath (s.forceCommit n) := by
  rcases s.forceCommit_cases n with ⟨-, -, -, he⟩ | ⟨-, he⟩ <;> rw [he]
  exact (s.listPath_applyCommit n).trans (State.listPath_post _ _)

theorem State.listPath_forceRetirement (s : State) (n : SurfaceId) : s.ListPath (s.forceRetirement n) := by
  rcases s.forceRetirement_cases n with ⟨-, -, he⟩ | ⟨-, he⟩ <;> rw [he]
  exact s.listPath_completeRetirement n true

theorem State.listPath_countDown (s : State) (n : SurfaceId) : s.ListPath (s.countDown n) := by
  unfold State.countDown
  split
  · exact s.listPath_setSurf rfl rfl
  · exact .refl

theorem State.listPath_tickSurface (s : State) (n : SurfaceId) : s.ListPath (s.tickSurface n) :=
  ((s.listPath_countDown n).trans (State.listPath_forceCommit _ n)).trans (State.listPath_forceRetirement _ n)

theorem State.listPath_tickSurfaces (s : State) (ns : List SurfaceId) :
    s.ListPath (ns.foldl State.tickSurface s) := by
  induction ns generalizing s with
  | nil => exact .refl
  | cons n ns ih => exact (s.listPath_tickSurface n).trans (ih _)

theorem State.listPath_tickClock (s : State) : s.ListPath s.tickClock := by
  rcases s.tickClock_cases with ⟨-, he⟩ | ⟨-, -, he⟩ | ⟨-, -, he⟩ <;> rw [he]
  · exact State.listPath_of_same rfl rfl rfl rfl
  · exact State.listPath_of_same rfl rfl rfl rfl

/-! ### The taking of a write (R9, R24, R25) -/

theorem State.listPath_commitAtStart (s : State) (n : SurfaceId) : s.ListPath (s.commitAtStart n) := by
  unfold State.commitAtStart
  split
  · exact (s.listPath_applyCommit n).trans (State.listPath_post _ _)
  · exact .refl

theorem State.listPath_noticeAtStart (s : State) (n : SurfaceId) (d : SurfaceDef) (k : BufferId) :
    s.ListPath (s.noticeAtStart n d k) := by
  unfold State.noticeAtStart
  split
  · exact s.listPath_post _
  · exact .refl

theorem State.listPath_startFrame (s : State) (n : SurfaceId) (d : SurfaceDef) (k : BufferId) (hi : Nat) :
    s.ListPath (s.startFrame n d k hi) := by
  have hbegun : s.ListPath (s.beginFrame n k hi) := s.listPath_setSurf rfl rfl
  unfold State.startFrame
  dsimp only
  split
  · exact hbegun.trans (State.listPath_completeRetirement _ n false)
  · exact (hbegun.trans (State.listPath_commitAtStart _ n)).trans (State.listPath_noticeAtStart _ n d k)

theorem State.listPath_handlePortion (s : State) (p : Portion) : s.ListPath (s.handlePortion p).1 := by
  cases ht : s.trackedOn p with
  | none => rw [State.handlePortion_untracked ht]
  | some out =>
    obtain ⟨⟨n, k⟩, d⟩ := out
    rw [State.handlePortion_tracked (State.tracks_of_trackedOn ht)]
    rcases s.trackPortion_cases n d k (p.lowRow d k) (p.highRow d k) with ⟨-, e⟩ | ⟨-, e⟩ <;> simp only [e]
    · exact s.listPath_startFrame n d k _
    · exact s.listPath_setSurf rfl rfl

theorem State.listPath_classifyWrite (s : State) (w : WriteRequest) : s.ListPath (s.classifyWrite w).1 :=
  State.handlePortions_keeps (P := s.ListPath) (fun _ p hu => hu.trans (State.listPath_handlePortion _ p)) s _ .refl

/-! ### The pass-through unit -/

theorem State.listPath_oweAnswer (s : State) (t : Tag) (a : AnswerStatus) : s.ListPath (s.oweAnswer t a) := by
  rcases s.oweAnswer_cases t a with ⟨-, e⟩ | ⟨-, e⟩ <;> rw [e] <;> exact State.listPath_of_same rfl rfl rfl rfl

theorem State.listPath_answerOne (s : State) (t : Tag) : s.ListPath (s.answerOne t) := by
  rcases s.answerOne_cases t with ⟨-, e⟩ | ⟨_, _, _, -, -, e⟩ <;> rw [e]
  exact State.listPath_of_same rfl rfl rfl rfl

theorem State.listPath_answerReady (s : State) (t : Tag) : s.ListPath (s.answerReady t) :=
  repeatStep_keeps (P := s.ListPath) (fun _ hu => hu.trans (State.listPath_answerOne _ t)) _ s .refl

theorem State.listPath_releaseOne (s : State) : s.ListPath s.releaseOne := by
  rcases s.releaseOne_cases with ⟨-, e⟩ | ⟨_, _, -, -, e⟩ <;> rw [e]
  exact State.listPath_of_same rfl rfl rfl rfl

theorem State.listPath_issueOne (s : State) : s.ListPath s.issueOne := by
  rcases s.issueOne_cases with ⟨-, e⟩ | ⟨_, _, _, -, -, -, -, -, e⟩ <;> rw [e]
  exact State.listPath_of_same rfl rfl rfl rfl

theorem State.listPath_advance (s : State) : s.ListPath s.advance :=
  State.advance_keeps (P := s.ListPath) (fun _ hu => hu.trans (State.listPath_releaseOne _))
    (fun _ hu => hu.trans (State.listPath_issueOne _)) s .refl

theorem State.listPath_takeMalformed (s : State) (a : Address) (len : Nat) (t : Tag) :
    s.ListPath (s.takeMalformed a len t) :=
  (s.listPath_post _).trans (State.listPath_oweAnswer _ t .fault)

theorem State.listPath_enqueueWrite (s : State) (w : WriteRequest) : s.ListPath (s.enqueueWrite w) := by
  refine ((s.listPath_classifyWrite w).trans ?_).trans (State.listPath_oweAnswer _ w.tag .posted)
  exact State.listPath_of_same rfl rfl rfl rfl

theorem State.listPath_acceptRead (s : State) (r : ReadRequest) : s.ListPath (s.acceptRead r) := by
  unfold State.acceptRead
  split <;> exact State.listPath_of_same rfl rfl rfl rfl

theorem State.listPath_takeRequest (s : State) (q : UpstreamRequest) : s.ListPath (s.takeRequest q) := by
  cases q with
  | write w =>
    rw [State.takeRequest]
    split
    · exact s.listPath_takeMalformed ..
    · split
      · exact s.listPath_enqueueWrite w
      · exact s.listPath_oweAnswer ..
  | read r =>
    rw [State.takeRequest]
    split
    · exact s.listPath_takeMalformed ..
    · exact s.listPath_acceptRead r

theorem State.listPath_settle (s : State) : s.ListPath s.settle :=
  State.takeWaiting_keeps (P := s.ListPath) (fun _ hu => hu.trans (State.listPath_advance _))
    (fun _ q hu _ => hu.trans (State.listPath_takeRequest _ q))
    (fun _ _ hu => hu.trans (State.listPath_of_same rfl rfl rfl rfl)) _ _ s.listPath_advance

theorem State.listPath_arrive (s : State) (q : UpstreamRequest) : s.ListPath (s.arrive q) := by
  have hw : s.ListPath { s with upstream := s.upstream ++ [q] } := State.listPath_of_same rfl rfl rfl rfl
  unfold State.arrive
  dsimp only
  split
  · exact hw
  · exact hw.trans (State.listPath_settle _)

theorem State.listPath_completeHead (s : State) (st : CompletionStatus) : s.ListPath (s.completeHead st) := by
  rcases s.completeHead_cases st with ⟨-, e⟩ | ⟨_, _, -, -, e⟩ <;> rw [e]
  exact State.listPath_of_same rfl rfl rfl rfl

theorem State.listPath_meetDrain (s : State) : s.ListPath s.meetDrain := by
  rcases s.meetDrain_cases with ⟨-, e⟩ | ⟨_, -, -, e⟩ <;> rw [e]
  exact State.listPath_of_same rfl rfl rfl rfl

theorem State.listPath_respond (s : State) (t : Tag) (ret : ReadReturn) : s.ListPath (s.respond t ret) := by
  unfold State.respond
  split
  · exact .refl
  · exact State.listPath_of_same rfl rfl rfl rfl

end Sys2Proof.Machine
end

section
/-! The commands that touch the lists as elementary changes: the surface commands, and what each staging command can do
(R47 to R56). -/

namespace Sys2Proof.Machine

/-! ### The bodies of the commands -/

/-- A command body changes the lists, the pool, the counts and bypass by elementary changes alone, from any state with
a well-formed surface table. -/
def MovesLists (body : State → Reply × State) : Prop := ∀ u : State, u.TableWf → u.ListPath (body u).2

theorem State.TableWf.listPath_runCommand {s t : State} (h : s.TableWf) {number : Byte} {f : CommandFrame} {ok : Bool}
    {body : State → Reply × State} (hb : MovesLists body) (ht : runCommand number f ok body s = .next t) :
    s.ListPath t := by
  have hr : s.ListPath (s.receive (frameBytes number f)) := State.listPath_of_same rfl rfl rfl rfl
  have hend (u : State) (r : LastResult) : u.ListPath (u.conclude f.tail r) := State.listPath_of_same rfl rfl rfl rfl
  rcases runCommand_cases ht with rfl | ⟨r, rfl⟩ | ⟨r, rfl⟩
  · exact .refl
  · exact hr.trans (hend _ r)
  · exact (hr.trans (hb _ (h.moves_receive _).1)).trans (hend _ r)

theorem movesLists_onSurface {f : CommandFrame} {body : SurfaceId → State → Reply × State}
    (h : ∀ n, MovesLists (body n)) : MovesLists (onSurface f body) := by
  intro u hu
  unfold onSurface
  split
  · exact .refl
  · exact h _ u hu

/-- The checks of R47 change nothing, so a staging command may do what its body does. -/
theorem movesLists_onStaging {f : CommandFrame} {body : SurfaceId → State → Reply × State}
    (h : ∀ (n : SurfaceId) (u : State), u.ListPath (body n u).2) : MovesLists (onStaging f body) := by
  rw [onStaging_eq]
  refine movesLists_onSurface fun n u _ => ?_
  unfold guardStaging
  split
  · exact .refl
  · exact h n u

/-! The items of a record by its state (R1) -/

theorem Surface.items_of_vacant {r : Surface} (h : r.wf = true) (hv : r.state = .vacant) : r.items = [] := by
  rw [(Surface.wf_vacant_iff hv).mp h]
  rfl

theorem Surface.items_of_defined {r : Surface} (h : r.wf = true) (hs : r.state = .defined) : r.items = r.staged := by
  obtain ⟨d, hd⟩ := Surface.exists_defn h (by simp [hs])
  obtain ⟨-, -, -, hactive, -⟩ := (Surface.wf_defined_iff hs hd).mp h
  rw [Surface.items, hactive, List.append_nil]

theorem movesLists_defineSurface (f : CommandFrame) (n : SurfaceId) : MovesLists (defineSurface f n) := by
  intro u hu
  unfold defineSurface
  split
  · exact .refl
  · exact .refl
  · rename_i hs
    split
    · exact .refl
    · refine (u.listChange_setSurf ?_).path
      rw [Surface.items_of_vacant (hu.2 n) hs]
      rfl
  · split
    · exact .refl
    · exact u.listPath_setSurf rfl rfl

theorem movesLists_activateSurface (n : SurfaceId) : MovesLists (activateSurface n) := by
  intro u hu
  unfold activateSurface
  split
  · rename_i hs
    split
    · exact .refl
    · refine (u.listChange_setSurf ?_).path
      rw [Surface.items_of_defined (hu.2 n) hs]
      rfl
  · exact .refl

theorem movesLists_retireSurface (n : SurfaceId) : MovesLists (retireSurface n) := by
  intro u _
  unfold retireSurface
  split
  · exact u.listPath_setSurf rfl rfl
  · exact .refl

theorem movesLists_releaseSurface (n : SurfaceId) : MovesLists (releaseSurface n) := by
  intro u hu
  unfold releaseSurface
  split
  · rename_i hs
    refine (State.listChange_of_freed (u.releaseSurface_tableAfter n) (u.freeItems_countsMoved _) ?_ (by simp)).path
    rw [Surface.items_of_defined (hu.2 n) hs]
    rfl
  · exact .refl

theorem movesLists_commit (n : SurfaceId) : MovesLists (commit n) := by
  intro u _
  unfold commit
  dsimp only
  split
  · split
    · exact .refl
    · exact u.listPath_setSurf rfl rfl
  · exact .refl

theorem movesLists_cancelCommit (n : SurfaceId) : MovesLists (cancelCommit n) := by
  intro u _
  unfold cancelCommit
  dsimp only
  split
  · split
    · exact u.listPath_setSurf rfl rfl
    · exact .refl
  · exact .refl

/-! ### What the staging commands do past their checks (R49 to R56) -/

/-- From `s` to `t` surface `n` takes another staged list and page, the records of `freed` go back to the pool and
records for `taken` are allocated; nothing else changes. -/
structure State.Restages (s t : State) (n : SurfaceId) (staged : List Item) (page : Option Page)
    (freed taken : List Item) : Prop where
  onlyTable : s.OnlyTable t
  counts    : s.CountsMoved t freed taken
  table     : s.TableAfter t n ((s.surf n).withStaged staged page)

/-- The staged list and page are set in a state whose counts have moved and whose table is as before. -/
theorem State.restages_setSurf {s u : State} {n : SurfaceId} {staged freed taken : List Item} {page : Option Page}
    (ho : s.OnlyTable u) (hs : u.surfaces = s.surfaces) (hc : s.CountsMoved u freed taken) :
    s.Restages (u.setSurf n ((s.surf n).withStaged staged page)) n staged page freed taken where
  onlyTable := by rw [ho]; rfl
  counts := hc
  table := ⟨State.surf_setSurf_same u n _, fun m hm =>
    (State.surf_setSurf_ne u n m _ hm.symm).trans (State.surf_congr hs m)⟩

/-- An item is appended to the staged list of surface `n`, in a record of its own (R49). -/
def State.itemAdded (s : State) (n : SurfaceId) (it : Item) : State :=
  (s.allocItems [it]).setStaged n ((s.surf n).staged ++ [it])

/-- The record at a position of the staged list, which held `old`, takes new contents (R50). -/
def State.itemSet (s : State) (n : SurfaceId) (pos : Nat) (old it : Item) : State :=
  (s.swapItem old it).setStaged n ((s.surf n).staged.set pos it)

/-- The item `old` leaves the staged list at a position, and its record is freed (R51). -/
def State.itemRemoved (s : State) (n : SurfaceId) (pos : Nat) (old : Item) : State :=
  (s.freeItems [old]).setStaged n ((s.surf n).staged.eraseIdx pos)

/-- The item `it` of the staged list moves from one position to another (R52). -/
def State.itemMoved (s : State) (n : SurfaceId) (i j : Nat) (it : Item) : State :=
  s.setStaged n (((s.surf n).staged.eraseIdx i).insertIdx j it)

/-- Every staged item is freed, and the staged page stays (R53). -/
def State.stagedCleared (s : State) (n : SurfaceId) : State := (s.freeItems (s.surf n).staged).setStaged n []

/-- The staged list and page become copies of the active ones (R54). -/
def State.activeCloned (s : State) (n : SurfaceId) : State :=
  ((s.freeItems (s.surf n).staged).allocItems (s.surf n).active).setSurf n
    ((s.surf n).withStaged (s.surf n).active (s.surf n).activePage)

theorem State.restages_itemAdded (s : State) (n : SurfaceId) (it : Item) :
    s.Restages (s.itemAdded n it) n ((s.surf n).staged ++ [it]) (s.surf n).stagedPage [] [it] :=
  State.restages_setSurf rfl rfl (s.allocItems_countsMoved [it])

theorem State.restages_itemSet (s : State) (n : SurfaceId) (pos : Nat) (old it : Item) :
    s.Restages (s.itemSet n pos old it) n ((s.surf n).staged.set pos it) (s.surf n).stagedPage [old] [it] := by
  have honly : s.OnlyTable (s.swapItem old it) := by simp only [State.swapItem]
  rw [State.itemSet, State.setStaged, State.surf_swapItem]
  exact State.restages_setSurf honly (s.swapItem_surfaces old it) (s.swapItem_countsMoved old it)

theorem State.restages_itemRemoved (s : State) (n : SurfaceId) (pos : Nat) (old : Item) :
    s.Restages (s.itemRemoved n pos old) n ((s.surf n).staged.eraseIdx pos) (s.surf n).stagedPage [old] [] :=
  State.restages_setSurf rfl rfl (s.freeItems_countsMoved [old])

theorem State.restages_stagedCleared (s : State) (n : SurfaceId) :
    s.Restages (s.stagedCleared n) n [] (s.surf n).stagedPage (s.surf n).staged [] :=
  State.restages_setSurf rfl rfl (s.freeItems_countsMoved _)

theorem State.restages_activeCloned (s : State) (n : SurfaceId) :
    s.Restages (s.activeCloned n) n (s.surf n).active (s.surf n).activePage (s.surf n).staged (s.surf n).active :=
  State.restages_setSurf rfl rfl (s.freeThenAlloc_countsMoved _ _)

/-! ### What each staging command can do -/

/-- ADD ITEM: a refusal without a payload, or the item appended past all checks of R48. -/
theorem addItem_cases (f : CommandFrame) (n : SurfaceId) (u : State) :
    (∃ c, addItem f n u = (.bare c, u)) ∨
      ∃ it, (u.bypass = true → it.isRedact = false) ∧ 0 < u.freeCount ∧
        addItem f n u = (⟨.ok, [byteOf (u.surf n).staged.length, byteOf (u.freeCount - 1)]⟩, u.itemAdded n it) := by
  unfold addItem
  split
  · exact .inl ⟨_, rfl⟩
  · rename_i it _
    split
    · exact .inl ⟨_, rfl⟩
    · rename_i hredact
      split
      · exact .inl ⟨_, rfl⟩
      · split
        · exact .inl ⟨_, rfl⟩
        · exact .inr ⟨it, fun hb => by simpa [hb] using hredact, by omega, rfl⟩

/-- SET ITEM: a refusal without a payload, or the record at a position of the staged list replaced. -/
theorem setItem_cases (f : CommandFrame) (n : SurfaceId) (u : State) :
    (∃ c, setItem f n u = (.bare c, u)) ∨
      ∃ old it, (u.surf n).staged[(arg f 1).toNat]? = some old ∧ (u.bypass = true → it.isRedact = false) ∧
        setItem f n u = (.done, u.itemSet n (arg f 1).toNat old it) := by
  unfold setItem
  split
  · rename_i old it hold _
    split
    · exact .inl ⟨_, rfl⟩
    · rename_i hredact
      exact .inr ⟨old, it, hold, fun hb => by simpa [hb] using hredact, rfl⟩
  · exact .inl ⟨_, rfl⟩

/-- REMOVE ITEM: a refusal without a payload, or the item at a position of the staged list removed. -/
theorem removeItem_cases (f : CommandFrame) (n : SurfaceId) (u : State) :
    (∃ c, removeItem f n u = (.bare c, u)) ∨
      ∃ old, (u.surf n).staged[(arg f 1).toNat]? = some old ∧
        removeItem f n u = (⟨.ok, [byteOf (u.freeCount + 1)]⟩, u.itemRemoved n (arg f 1).toNat old) := by
  unfold removeItem
  split
  · exact .inl ⟨_, rfl⟩
  · rename_i old hold
    exact .inr ⟨old, hold, rfl⟩

/-- MOVE ITEM: a refusal without a payload, or the item at one position of the staged list moved to another. -/
theorem moveItem_cases (f : CommandFrame) (n : SurfaceId) (u : State) :
    (∃ c, moveItem f n u = (.bare c, u)) ∨
      ∃ it, (u.surf n).staged[(arg f 1).toNat]? = some it ∧ (arg f 2).toNat < (u.surf n).staged.length ∧
        moveItem f n u = (.done, u.itemMoved n (arg f 1).toNat (arg f 2).toNat it) := by
  unfold moveItem
  dsimp only
  split
  · exact .inl ⟨_, rfl⟩
  · rename_i it hit
    split
    · rename_i hj
      exact .inr ⟨it, hit, hj, rfl⟩
    · exact .inl ⟨_, rfl⟩

/-- CLEAR STAGED always frees. -/
theorem clearStaged_eq (n : SurfaceId) (u : State) :
    clearStaged n u = (⟨.ok, [byteOf (u.freeCount + (u.surf n).staged.length)]⟩, u.stagedCleared n) := rfl

/-- CLONE ACTIVE: a refusal, or the active list copied out of enough free records. -/
theorem cloneActive_cases (n : SurfaceId) (u : State) :
    (∃ c p, c ≠ .ok ∧ cloneActive n u = (⟨c, p⟩, u)) ∨
      ((u.surf n).active.length - (u.surf n).staged.length ≤ u.freeCount ∧
        cloneActive n u =
          (⟨.ok, [byteOf (u.surf n).active.length,
            byteOf (u.freeCount + (u.surf n).staged.length - (u.surf n).active.length)]⟩, u.activeCloned n)) := by
  unfold cloneActive
  dsimp only
  split
  · split
    · exact .inl ⟨_, _, by decide, rfl⟩
    · exact .inr ⟨by omega, rfl⟩
  · exact .inl ⟨_, _, by decide, rfl⟩

/-- SELECT PAGE: a refusal without a payload, or the staged page set. -/
theorem selectPage_cases (f : CommandFrame) (n : SurfaceId) (u : State) :
    (∃ c, selectPage f n u = (.bare c, u)) ∨
      ∃ p, selectPage f n u = (.done, u.setSurf n { u.surf n with stagedPage := some p }) := by
  unfold selectPage
  split
  · exact .inl ⟨_, rfl⟩
  · exact .inr ⟨_, rfl⟩

/-! ### The staging commands change the lists by elementary changes -/

/-- A staged list that keeps `kept`, loses `freed` and gains `taken`. -/
theorem State.Restages.listPath {s t : State} {n : SurfaceId} {staged kept freed taken : List Item}
    {page : Option Page} (h : s.Restages t n staged page freed taken)
    (hbefore : (s.surf n).staged.Perm (kept ++ freed)) (hafter : staged.Perm (kept ++ taken))
    (hroom : taken.length ≤ s.freeCount + freed.length)
    (hr : s.bypass = true → ∀ it ∈ taken, it.isRedact = true → it ∈ (s.surf n).items) : s.ListPath t := by
  have hactive (xs : List Item) : (kept ++ xs ++ (s.surf n).active).Perm (kept ++ (s.surf n).active ++ xs) := by
    rw [List.append_assoc, List.append_assoc]
    exact List.perm_append_comm.append_left kept
  refine (State.listChange_of_moved h.table h.counts (kept := kept ++ (s.surf n).active) ?_ ?_ hroom ?_ hr).path
  · exact (hbefore.append_right _).trans (hactive freed)
  · exact (hafter.append_right _).trans (hactive taken)
  · rw [h.onlyTable]

theorem perm_eraseIdx {items : List Item} {pos : Nat} {old : Item} (h : items[pos]? = some old) :
    items.Perm (items.eraseIdx pos ++ [old]) := by
  obtain ⟨hlt, rfl⟩ := List.getElem?_eq_some_iff.mp h
  exact ((List.getElem_cons_eraseIdx_perm hlt).symm).trans (List.perm_append_singleton _ _).symm

theorem perm_set {items : List Item} {pos : Nat} {old : Item} (h : items[pos]? = some old) (it : Item) :
    (items.set pos it).Perm (items.eraseIdx pos ++ [it]) := by
  obtain ⟨hlt, -⟩ := List.getElem?_eq_some_iff.mp h
  exact (List.set_perm_cons_eraseIdx hlt it).trans (List.perm_append_singleton _ _).symm

theorem addItem_listPath (f : CommandFrame) (n : SurfaceId) (u : State) : u.ListPath (addItem f n u).2 := by
  rcases addItem_cases f n u with ⟨c, e⟩ | ⟨it, hredact, hfree, e⟩ <;> rw [e]
  refine (u.restages_itemAdded n it).listPath (kept := (u.surf n).staged) (by simp) (.refl _) (by simp; omega) ?_
  intro hb x hx hred
  rw [List.mem_singleton.mp hx, hredact hb] at hred
  cases hred

theorem setItem_listPath (f : CommandFrame) (n : SurfaceId) (u : State) : u.ListPath (setItem f n u).2 := by
  rcases setItem_cases f n u with ⟨c, e⟩ | ⟨old, it, hold, hredact, e⟩ <;> rw [e]
  refine (u.restages_itemSet n _ old it).listPath (perm_eraseIdx hold) (perm_set hold it) (by simp) ?_
  intro hb x hx hred
  rw [List.mem_singleton.mp hx, hredact hb] at hred
  cases hred

theorem removeItem_listPath (f : CommandFrame) (n : SurfaceId) (u : State) : u.ListPath (removeItem f n u).2 := by
  rcases removeItem_cases f n u with ⟨c, e⟩ | ⟨old, hold, e⟩ <;> rw [e]
  exact (u.restages_itemRemoved n _ old).listPath (perm_eraseIdx hold) (by simp) (by simp) (by simp)

theorem perm_moved {items : List Item} {i j : Nat} {it : Item} (hi : items[i]? = some it) (hj : j < items.length) :
    ((items.eraseIdx i).insertIdx j it).Perm items := by
  obtain ⟨hlt, rfl⟩ := List.getElem?_eq_some_iff.mp hi
  have hlen : (items.eraseIdx i).length = items.length - 1 := List.length_eraseIdx_of_lt hlt
  exact (List.perm_insertIdx _ _ (by omega)).trans (List.getElem_cons_eraseIdx_perm hlt)

theorem moveItem_listPath (f : CommandFrame) (n : SurfaceId) (u : State) : u.ListPath (moveItem f n u).2 := by
  rcases moveItem_cases f n u with ⟨c, e⟩ | ⟨it, hi, hj, e⟩ <;> rw [e]
  exact (u.listChange_setSurf ((perm_moved hi hj).append_right _)).path

theorem clearStaged_listPath (n : SurfaceId) (u : State) : u.ListPath (clearStaged n u).2 := by
  rw [clearStaged_eq]
  exact (u.restages_stagedCleared n).listPath (kept := []) (.refl _) (.refl _) (by simp) (by simp)

theorem cloneActive_listPath (n : SurfaceId) (u : State) : u.ListPath (cloneActive n u).2 := by
  rcases cloneActive_cases n u with ⟨c, p, -, e⟩ | ⟨hfree, e⟩ <;> rw [e]
  refine (u.restages_activeCloned n).listPath (kept := []) (.refl _) (.refl _) (by omega) fun _ it hit _ => ?_
  exact List.mem_append_right _ hit

theorem selectPage_listPath (f : CommandFrame) (n : SurfaceId) (u : State) : u.ListPath (selectPage f n u).2 := by
  rcases selectPage_cases f n u with ⟨c, e⟩ | ⟨p, e⟩ <;> rw [e]
  exact u.listPath_setSurf rfl rfl

end Sys2Proof.Machine
end

section
/-! The pool stays balanced and the counts exact (R38, R90), and REDACT items stay off the lists while bypass is on (R55,
R134): every row is a run of elementary changes. -/

namespace Sys2Proof.Machine

/-! ### The commands that leave the lists alone, SET BYPASS and SOFT RESET -/

/-- A body that leaves the table, the pool, the slots and the bypass switch as they are. -/
theorem movesLists_of_untouched {body : State → Reply × State}
    (h : ∀ u, (body u).2.surfaces = u.surfaces ∧ (body u).2.freeCount = u.freeCount ∧ (body u).2.slots = u.slots ∧
      (body u).2.bypass = u.bypass) : MovesLists body := by
  intro u _
  obtain ⟨hs, hf, hk, hb⟩ := h u
  exact State.listPath_of_same hs hf hk hb

theorem movesLists_readSurface (n : SurfaceId) : MovesLists (readSurface n) := fun _ _ => .refl

theorem movesLists_readItem (f : CommandFrame) (n : SurfaceId) : MovesLists (readItem f n) := by
  refine movesLists_of_untouched fun u => ?_
  unfold readItem
  split
  · simp
  · split
    · simp
    · split <;> simp

theorem movesLists_writeGlyph (f : CommandFrame) : MovesLists (writeGlyph f) := by
  refine movesLists_of_untouched fun u => ?_
  unfold writeGlyph
  split
  · split <;> simp
  · simp

theorem movesLists_writePageHeader (f : CommandFrame) : MovesLists (writePageHeader f) := by
  refine movesLists_of_untouched fun u => ?_
  unfold writePageHeader
  split
  · split <;> simp
  · simp

theorem movesLists_readGlyph (f : CommandFrame) : MovesLists (readGlyph f) := by
  refine movesLists_of_untouched fun u => ?_
  unfold readGlyph
  split <;> simp

/-- WRITE STRING replaces the codes of a slot and keeps its reference count (R92). -/
theorem movesLists_writeString (f : CommandFrame) : MovesLists (writeString f) := by
  intro u _
  unfold writeString
  split
  · exact .refl
  · rename_i k _
    split
    · exact .refl
    · split
      · exact .refl
      · refine .single (.same ⟨rfl, rfl, fun j => ?_⟩ rfl)
        rw [State.slot_setSlot]
        split
        · rename_i e; rw [← e]
        · rfl

theorem movesLists_readString (f : CommandFrame) : MovesLists (readString f) := by
  refine movesLists_of_untouched fun u => ?_
  unfold readString
  split <;> simp

theorem movesLists_setClock (f : CommandFrame) : MovesLists (setClock f) := by
  refine movesLists_of_untouched fun u => ?_
  unfold setClock
  split <;> simp

theorem movesLists_holdClock : MovesLists holdClock := movesLists_of_untouched fun _ => ⟨rfl, rfl, rfl, rfl⟩

theorem movesLists_adjustClock (f : CommandFrame) : MovesLists (adjustClock f) := by
  refine movesLists_of_untouched fun u => ?_
  unfold adjustClock
  split
  · simp
  · split <;> simp

theorem movesLists_readClock : MovesLists readClock := fun _ _ => .refl

theorem movesLists_takeDrain (f : CommandFrame) : MovesLists (takeDrain f) := by
  refine movesLists_of_untouched fun u => ?_
  unfold takeDrain
  split
  · simp
  · split <;> simp

theorem movesLists_readStatus : MovesLists readStatus := fun _ _ => .refl

theorem movesLists_nextNotice : MovesLists nextNotice := by
  refine movesLists_of_untouched fun u => ?_
  unfold nextNotice
  split <;> simp

theorem Surface.holdsRedact_eq_false {r : Surface} (h : r.wf = true) (hr : r.holdsRedact = false) :
    ∀ it ∈ r.items, it.isRedact = false := by
  by_cases hv : r.state = .vacant
  · simp [Surface.items_of_vacant h hv]
  · rw [Surface.holdsRedact, bne_iff_ne.mpr hv, Bool.true_and, Bool.or_eq_false_iff] at hr
    simpa only [Surface.items, List.forall_mem_append, List.any_eq_false, Bool.not_eq_true] using hr

/-- SET BYPASS turns bypass on only where no surface holds a REDACT item; a VACANT one holds no item at all (R153). -/
theorem movesLists_setBypass (f : CommandFrame) : MovesLists (setBypass f) := by
  intro u hu
  unfold setBypass
  split
  · exact .refl
  · split
    · exact .refl
    · rename_i on _ hguard
      refine .single (.switched ⟨rfl, rfl, fun _ => rfl⟩ fun hon n => ?_)
      have hnone : u.holdsRedact = false := by
        have hon' : on = true := hon
        simpa [hon'] using hguard
      refine Surface.holdsRedact_eq_false (hu.2 n) ?_
      rw [State.holdsRedact, List.any_eq_false] at hnone
      simpa using hnone n (mem_surfaceIds n)

theorem movesLists_softReset : MovesLists fun s => (Reply.done, s.softReset) := by
  intro u _
  refine .single (.cleared (fun n => ?_) rfl (fun k => ?_) rfl)
  · rw [State.surf_of_replicate_vacant rfl n]; rfl
  · simp [State.softReset, State.slot]

/-! ### Every row -/

/-- An event that is not taken while RESETN is asserted. -/
theorem State.listPath_unlessReset {s t u : State} (hu : s.ListPath u)
    (ht : (if s.resetAsserted = true then .next s else .next u : Host.Outcome State Fault Refusal) = .next t) :
    s.ListPath t := by
  split at ht <;> cases ht
  · exact .refl
  · exact hu

/-- A transaction that executes nothing: it is received and concluded. -/
theorem State.listPath_transaction (s : State) (bytes : List Byte) (tail : List Bool) (r : LastResult) :
    s.ListPath ((s.receive bytes).conclude tail r) := State.listPath_of_same rfl rfl rfl rfl

theorem State.listPath_execNop {s t : State} {f : CommandFrame} (ht : execNop f s = .next t) : s.ListPath t := by
  unfold execNop at ht
  dsimp only at ht
  split at ht
  · cases ht; exact .refl
  · split at ht <;> cases ht <;> exact s.listPath_transaction ..

theorem State.listPath_execBadFrame {s t : State} {raw : RawTransaction} (ht : execBadFrame raw s = .next t) :
    s.ListPath t := by
  unfold execBadFrame at ht
  split at ht
  · cases ht; exact .refl
  · split at ht <;> cases ht <;> exact s.listPath_transaction ..

theorem State.listPath_execHardReset {s t : State} {received : Option (List Byte)}
    (ht : execHardReset received s = .next t) : s.ListPath t := by
  cases ht
  refine .single (.cleared (fun n => ?_) rfl (fun k => ?_) rfl)
  · rw [State.surf_of_replicate_vacant rfl n]; rfl
  · exact congrArg StringSlot.refCount (State.reset_slot k)

theorem State.listPath_execResetnRelease {s t : State} {csnLow : Bool} (ht : execResetnRelease csnLow s = .next t) :
    s.ListPath t := by
  have hr : s.ListPath { s with resetAsserted := false, linkAbandoned := csnLow } :=
    State.listPath_of_same rfl rfl rfl rfl
  unfold execResetnRelease at ht
  split at ht <;> cases ht
  · exact hr.trans (State.listPath_settle _)
  · exact .refl

/-- Every row changes the lists, the pool, the counts and bypass by elementary changes alone. -/
theorem State.TableWf.listPath_exec {s t : State} (h : s.TableWf) {c : Instr} (ht : exec c s = .next t) :
    s.ListPath t := by
  cases c with
  | nop f => exact State.listPath_execNop ht
  | softReset f => exact h.listPath_runCommand movesLists_softReset ht
  | defineSurface f => exact h.listPath_runCommand (movesLists_onSurface (movesLists_defineSurface f)) ht
  | activateSurface f => exact h.listPath_runCommand (movesLists_onSurface movesLists_activateSurface) ht
  | retireSurface f => exact h.listPath_runCommand (movesLists_onSurface movesLists_retireSurface) ht
  | releaseSurface f => exact h.listPath_runCommand (movesLists_onSurface movesLists_releaseSurface) ht
  | readSurface f => exact h.listPath_runCommand (movesLists_onSurface movesLists_readSurface) ht
  | addItem f => exact h.listPath_runCommand (movesLists_onStaging (addItem_listPath f)) ht
  | setItem f => exact h.listPath_runCommand (movesLists_onStaging (setItem_listPath f)) ht
  | removeItem f => exact h.listPath_runCommand (movesLists_onStaging (removeItem_listPath f)) ht
  | moveItem f => exact h.listPath_runCommand (movesLists_onStaging (moveItem_listPath f)) ht
  | clearStaged f => exact h.listPath_runCommand (movesLists_onStaging clearStaged_listPath) ht
  | cloneActive f => exact h.listPath_runCommand (movesLists_onStaging cloneActive_listPath) ht
  | selectPage f => exact h.listPath_runCommand (movesLists_onStaging (selectPage_listPath f)) ht
  | readItem f => exact h.listPath_runCommand (movesLists_onSurface (movesLists_readItem f)) ht
  | commit f => exact h.listPath_runCommand (movesLists_onSurface movesLists_commit) ht
  | cancelCommit f => exact h.listPath_runCommand (movesLists_onSurface movesLists_cancelCommit) ht
  | writeGlyph f => exact h.listPath_runCommand (movesLists_writeGlyph f) ht
  | writePageHeader f => exact h.listPath_runCommand (movesLists_writePageHeader f) ht
  | readGlyph f => exact h.listPath_runCommand (movesLists_readGlyph f) ht
  | writeString f => exact h.listPath_runCommand (movesLists_writeString f) ht
  | readString f => exact h.listPath_runCommand (movesLists_readString f) ht
  | setClock f => exact h.listPath_runCommand (movesLists_setClock f) ht
  | holdClock f => exact h.listPath_runCommand movesLists_holdClock ht
  | adjustClock f => exact h.listPath_runCommand (movesLists_adjustClock f) ht
  | readClock f => exact h.listPath_runCommand movesLists_readClock ht
  | setBypass f => exact h.listPath_runCommand (movesLists_setBypass f) ht
  | drain f => exact h.listPath_runCommand (movesLists_takeDrain f) ht
  | readStatus f => exact h.listPath_runCommand movesLists_readStatus ht
  | nextNotice f => exact h.listPath_runCommand movesLists_nextNotice ht
  | badFrame raw => exact State.listPath_execBadFrame ht
  | badCommand number f => exact State.listPath_unlessReset (s.listPath_transaction ..) ht
  | hardReset received => exact State.listPath_execHardReset ht
  | resetnRelease csnLow => exact State.listPath_execResetnRelease ht
  | tick => exact State.listPath_unlessReset (s.listPath_tickClock.trans (State.listPath_tickSurfaces _ surfaceIds)) ht
  | forcedCommit n => exact State.listPath_unlessReset (s.listPath_forceCommit n) ht
  | forcedRetirement n => exact State.listPath_unlessReset (s.listPath_forceRetirement n) ht
  | upstreamWrite w => cases ht; exact s.listPath_arrive _
  | upstreamRead r => cases ht; exact s.listPath_arrive _
  | writeIssue => exact State.listPath_unlessReset s.listPath_issueOne ht
  | writeCompletion st =>
    have hmet := (s.listPath_completeHead st).trans (State.listPath_meetDrain _)
    exact State.listPath_unlessReset (hmet.trans (State.listPath_settle _)) ht
  | heldReadRelease => exact State.listPath_unlessReset s.listPath_releaseOne ht
  | readResponse tag ret =>
    have hanswered := (s.listPath_respond tag ret).trans (State.listPath_answerReady _ tag)
    exact State.listPath_unlessReset (hanswered.trans (State.listPath_settle _)) ht
  | upstreamAnswer tag => exact State.listPath_unlessReset (s.listPath_answerOne tag) ht
  | drainMet => exact State.listPath_unlessReset s.listPath_meetDrain ht

theorem State.TableWf.listPath_step {s t : State} (h : s.TableWf) (ht : step s = .next t) : s.ListPath t := by
  unfold step at ht
  split at ht
  · cases ht; exact .refl
  · rename_i c rest _
    have hpop : s.ListPath { s with pending := rest } := State.listPath_of_same rfl rfl rfl rfl
    have hwf : State.TableWf { s with pending := rest } := h
    exact hpop.trans (hwf.listPath_exec ht)

/-- Settles O54: every step is a run of elementary changes, each of which moves as many records between the lists and
the pool as it moves counts. -/
theorem poolAndCountsKept : Obligations.PoolAndCountsKept :=
  fun _ _ h hpool hcounts ht => (h.listPath_step ht).poolExact ⟨hpool, hcounts⟩

/-- Settles O55: of those changes none brings a REDACT item onto a list while bypass is on, and the one that turns
bypass on finds none there. -/
theorem bypassKeptSafe : Obligations.BypassKeptSafe :=
  fun _ _ h hsafe ht => (h.listPath_step ht).bypassSafe hsafe

end Sys2Proof.Machine
end

section
/-! A refused command changes nothing (R39, R48): every row of the catalogue but NOP is a transaction of one body, and no
body that refuses changes the state. -/

namespace Sys2Proof.Machine

/-- A command body changes nothing where its result is not OK. -/
def RefusesUnchanged (body : State → Reply × State) : Prop := ∀ u, (body u).1.code ≠ .ok → (body u).2 = u

theorem refusesUnchanged_onSurface {f : CommandFrame} {body : SurfaceId → State → Reply × State}
    (h : ∀ n, RefusesUnchanged (body n)) : RefusesUnchanged (onSurface f body) := by
  intro u
  unfold onSurface
  split
  · exact fun _ => rfl
  · exact h _ u

theorem refusesUnchanged_guardStaging {body : SurfaceId → State → Reply × State} (h : ∀ n, RefusesUnchanged (body n))
    (n : SurfaceId) : RefusesUnchanged (guardStaging body n) := by
  intro u
  unfold guardStaging
  split
  · exact fun _ => rfl
  · exact h n u

/-- A body that always answers OK refuses nothing. -/
theorem refusesUnchanged_of_ok {body : State → Reply × State} (h : ∀ u, (body u).1.code = .ok) :
    RefusesUnchanged body := fun u hne => absurd (h u) hne

/-- A body that changes nothing at all. -/
theorem refusesUnchanged_of_reads {body : State → Reply × State} (h : ∀ u, (body u).2 = u) :
    RefusesUnchanged body := fun u _ => h u

/-! ### The bodies of the commands -/

theorem refusesUnchanged_defineSurface (f : CommandFrame) (n : SurfaceId) : RefusesUnchanged (defineSurface f n) := by
  intro u
  unfold defineSurface
  split
  · exact fun _ => rfl
  · exact fun _ => rfl
  · split
    · exact fun _ => rfl
    · exact fun hne => absurd rfl hne
  · split
    · exact fun _ => rfl
    · exact fun hne => absurd rfl hne

theorem refusesUnchanged_activateSurface (n : SurfaceId) : RefusesUnchanged (activateSurface n) := by
  intro u
  unfold activateSurface
  split
  · split
    · exact fun _ => rfl
    · exact fun hne => absurd rfl hne
  · exact fun _ => rfl

theorem refusesUnchanged_retireSurface (n : SurfaceId) : RefusesUnchanged (retireSurface n) := by
  intro u
  unfold retireSurface
  split
  · exact fun hne => absurd rfl hne
  · exact fun _ => rfl

theorem refusesUnchanged_releaseSurface (n : SurfaceId) : RefusesUnchanged (releaseSurface n) := by
  intro u
  unfold releaseSurface
  split
  · exact fun hne => absurd rfl hne
  · exact fun _ => rfl

theorem refusesUnchanged_readSurface (n : SurfaceId) : RefusesUnchanged (readSurface n) :=
  refusesUnchanged_of_reads fun _ => rfl

theorem refusesUnchanged_addItem (f : CommandFrame) (n : SurfaceId) : RefusesUnchanged (addItem f n) := by
  intro u
  rcases addItem_cases f n u with ⟨c, e⟩ | ⟨it, -, -, e⟩ <;> rw [e]
  · exact fun _ => rfl
  · exact fun hne => absurd rfl hne

theorem refusesUnchanged_setItem (f : CommandFrame) (n : SurfaceId) : RefusesUnchanged (setItem f n) := by
  intro u
  rcases setItem_cases f n u with ⟨c, e⟩ | ⟨old, it, -, -, e⟩ <;> rw [e]
  · exact fun _ => rfl
  · exact fun hne => absurd rfl hne

theorem refusesUnchanged_removeItem (f : CommandFrame) (n : SurfaceId) : RefusesUnchanged (removeItem f n) := by
  intro u
  rcases removeItem_cases f n u with ⟨c, e⟩ | ⟨old, -, e⟩ <;> rw [e]
  · exact fun _ => rfl
  · exact fun hne => absurd rfl hne

theorem refusesUnchanged_moveItem (f : CommandFrame) (n : SurfaceId) : RefusesUnchanged (moveItem f n) := by
  intro u
  rcases moveItem_cases f n u with ⟨c, e⟩ | ⟨it, -, -, e⟩ <;> rw [e]
  · exact fun _ => rfl
  · exact fun hne => absurd rfl hne

theorem refusesUnchanged_clearStaged (n : SurfaceId) : RefusesUnchanged (clearStaged n) :=
  refusesUnchanged_of_ok fun _ => rfl

theorem refusesUnchanged_cloneActive (n : SurfaceId) : RefusesUnchanged (cloneActive n) := by
  intro u
  rcases cloneActive_cases n u with ⟨c, p, -, e⟩ | ⟨-, e⟩ <;> rw [e]
  · exact fun _ => rfl
  · exact fun hne => absurd rfl hne

theorem refusesUnchanged_selectPage (f : CommandFrame) (n : SurfaceId) : RefusesUnchanged (selectPage f n) := by
  intro u
  rcases selectPage_cases f n u with ⟨c, e⟩ | ⟨p, e⟩ <;> rw [e]
  · exact fun _ => rfl
  · exact fun hne => absurd rfl hne

theorem refusesUnchanged_readItem (f : CommandFrame) (n : SurfaceId) : RefusesUnchanged (readItem f n) := by
  refine refusesUnchanged_of_reads fun u => ?_
  unfold readItem
  split
  · rfl
  · split
    · rfl
    · split <;> rfl

theorem refusesUnchanged_commit (n : SurfaceId) : RefusesUnchanged (commit n) := by
  intro u
  unfold commit
  dsimp only
  split
  · split <;> exact fun hne => absurd rfl hne
  · exact fun _ => rfl

theorem refusesUnchanged_cancelCommit (n : SurfaceId) : RefusesUnchanged (cancelCommit n) := by
  intro u
  unfold cancelCommit
  dsimp only
  split
  · split
    · exact fun hne => absurd rfl hne
    · exact fun _ => rfl
  · exact fun _ => rfl

theorem refusesUnchanged_writeGlyph (f : CommandFrame) : RefusesUnchanged (writeGlyph f) := by
  intro u
  unfold writeGlyph
  split
  · split
    · exact fun _ => rfl
    · exact fun hne => absurd rfl hne
  · exact fun _ => rfl

theorem refusesUnchanged_writePageHeader (f : CommandFrame) : RefusesUnchanged (writePageHeader f) := by
  intro u
  unfold writePageHeader
  split
  · split
    · exact fun _ => rfl
    · exact fun hne => absurd rfl hne
  · exact fun _ => rfl

theorem refusesUnchanged_readGlyph (f : CommandFrame) : RefusesUnchanged (readGlyph f) := by
  refine refusesUnchanged_of_reads fun u => ?_
  unfold readGlyph
  split <;> rfl

theorem refusesUnchanged_writeString (f : CommandFrame) : RefusesUnchanged (writeString f) := by
  intro u
  unfold writeString
  split
  · exact fun _ => rfl
  · split
    · exact fun _ => rfl
    · split
      · exact fun _ => rfl
      · exact fun hne => absurd rfl hne

theorem refusesUnchanged_readString (f : CommandFrame) : RefusesUnchanged (readString f) := by
  refine refusesUnchanged_of_reads fun u => ?_
  unfold readString
  split <;> rfl

theorem refusesUnchanged_setClock (f : CommandFrame) : RefusesUnchanged (setClock f) := by
  intro u
  unfold setClock
  split
  · exact fun _ => rfl
  · exact fun hne => absurd rfl hne

theorem refusesUnchanged_adjustClock (f : CommandFrame) : RefusesUnchanged (adjustClock f) := by
  intro u
  unfold adjustClock
  split
  · exact fun _ => rfl
  · split
    · exact fun hne => absurd rfl hne
    · exact fun _ => rfl

theorem refusesUnchanged_setBypass (f : CommandFrame) : RefusesUnchanged (setBypass f) := by
  intro u
  unfold setBypass
  split
  · exact fun _ => rfl
  · split
    · exact fun _ => rfl
    · exact fun hne => absurd rfl hne

theorem refusesUnchanged_takeDrain (f : CommandFrame) : RefusesUnchanged (takeDrain f) := by
  intro u
  unfold takeDrain
  split
  · exact fun _ => rfl
  · split <;> exact fun hne => absurd rfl hne

theorem refusesUnchanged_nextNotice : RefusesUnchanged nextNotice := by
  intro u
  unfold nextNotice
  split
  · exact fun _ => rfl
  · exact fun hne => absurd rfl hne

/-! ### Every row of the catalogue but NOP -/

/-- A row of the catalogue runs, under its number, one body that keeps the port's fields and refuses without a
change. -/
def RunsBody (number : Byte) (row : CommandFrame → Instr) : Prop :=
  ∀ f, ∃ (ok : Bool) (body : State → Reply × State), KeepsPort body ∧ RefusesUnchanged body ∧
    ∀ s, exec (row f) s = runCommand number f ok body s

theorem runsBody_onSurface {number : Byte} {row : CommandFrame → Instr} {ok : CommandFrame → Bool}
    {body : CommandFrame → SurfaceId → State → Reply × State}
    (he : ∀ f s, exec (row f) s = runCommand number f (ok f) (onSurface f (body f)) s)
    (hk : ∀ f n, KeepsPort (body f n)) (hr : ∀ f n, RefusesUnchanged (body f n)) : RunsBody number row :=
  fun f => ⟨ok f, _, keepsPort_onSurface f _ (hk f), refusesUnchanged_onSurface (hr f), he f⟩

theorem runsBody_onStaging {number : Byte} {row : CommandFrame → Instr} {ok : CommandFrame → Bool}
    {body : CommandFrame → SurfaceId → State → Reply × State}
    (he : ∀ f s, exec (row f) s = runCommand number f (ok f) (onStaging f (body f)) s)
    (hk : ∀ f n, KeepsPort (body f n)) (hr : ∀ f n, RefusesUnchanged (body f n)) : RunsBody number row :=
  runsBody_onSurface he (fun f => keepsPort_guardStaging _ (hk f)) fun f => refusesUnchanged_guardStaging (hr f)

theorem runsBody_of_catalogue {number : Byte} {row : CommandFrame → Instr} (hn : number ≠ 0x00)
    (hr : catalogue number = some row) : RunsBody number row := by
  obtain ⟨m, hm⟩ : ∃ m, number.toNat = m := ⟨_, rfl⟩
  obtain rfl : number = BitVec.ofNat 8 m := by rw [← hm, BitVec.ofNat_toNat, BitVec.setWidth_eq]
  unfold catalogue at hr
  rw [hm] at hr
  split at hr <;> cases hr
  · exact absurd rfl hn
  · exact fun f => ⟨_, _, keepsPort_softReset, refusesUnchanged_of_ok fun _ => rfl, fun _ => rfl⟩
  · exact runsBody_onSurface (fun _ _ => rfl) keepsPort_defineSurface refusesUnchanged_defineSurface
  · exact runsBody_onSurface (fun _ _ => rfl) (fun _ => keepsPort_activateSurface)
      fun _ => refusesUnchanged_activateSurface
  · exact runsBody_onSurface (fun _ _ => rfl) (fun _ => keepsPort_retireSurface) fun _ => refusesUnchanged_retireSurface
  · exact runsBody_onSurface (fun _ _ => rfl) (fun _ => keepsPort_releaseSurface)
      fun _ => refusesUnchanged_releaseSurface
  · exact runsBody_onSurface (fun _ _ => rfl) (fun _ => keepsPort_readSurface) fun _ => refusesUnchanged_readSurface
  · exact runsBody_onStaging (fun _ _ => rfl) keepsPort_addItem refusesUnchanged_addItem
  · exact runsBody_onStaging (fun _ _ => rfl) keepsPort_setItem refusesUnchanged_setItem
  · exact runsBody_onStaging (fun _ _ => rfl) keepsPort_removeItem refusesUnchanged_removeItem
  · exact runsBody_onStaging (fun _ _ => rfl) keepsPort_moveItem refusesUnchanged_moveItem
  · exact runsBody_onStaging (fun _ _ => rfl) (fun _ => keepsPort_clearStaged) fun _ => refusesUnchanged_clearStaged
  · exact runsBody_onStaging (fun _ _ => rfl) (fun _ => keepsPort_cloneActive) fun _ => refusesUnchanged_cloneActive
  · exact runsBody_onStaging (fun _ _ => rfl) keepsPort_selectPage refusesUnchanged_selectPage
  · exact runsBody_onSurface (fun _ _ => rfl) keepsPort_readItem refusesUnchanged_readItem
  · exact runsBody_onSurface (fun _ _ => rfl) (fun _ => keepsPort_commit) fun _ => refusesUnchanged_commit
  · exact runsBody_onSurface (fun _ _ => rfl) (fun _ => keepsPort_cancelCommit) fun _ => refusesUnchanged_cancelCommit
  · exact fun f => ⟨_, _, keepsPort_writeGlyph f, refusesUnchanged_writeGlyph f, fun _ => rfl⟩
  · exact fun f => ⟨_, _, keepsPort_writePageHeader f, refusesUnchanged_writePageHeader f, fun _ => rfl⟩
  · exact fun f => ⟨_, _, keepsPort_readGlyph f, refusesUnchanged_readGlyph f, fun _ => rfl⟩
  · exact fun f => ⟨_, _, keepsPort_writeString f, refusesUnchanged_writeString f, fun _ => rfl⟩
  · exact fun f => ⟨_, _, keepsPort_readString f, refusesUnchanged_readString f, fun _ => rfl⟩
  · exact fun f => ⟨_, _, keepsPort_setClock f, refusesUnchanged_setClock f, fun _ => rfl⟩
  · exact fun f => ⟨_, _, keepsPort_holdClock, refusesUnchanged_of_ok fun _ => rfl, fun _ => rfl⟩
  · exact fun f => ⟨_, _, keepsPort_adjustClock f, refusesUnchanged_adjustClock f, fun _ => rfl⟩
  · exact fun f => ⟨_, _, keepsPort_readClock, refusesUnchanged_of_ok fun _ => rfl, fun _ => rfl⟩
  · exact fun f => ⟨_, _, keepsPort_setBypass f, refusesUnchanged_setBypass f, fun _ => rfl⟩
  · exact fun f => ⟨_, _, keepsPort_takeDrain f, refusesUnchanged_takeDrain f, fun _ => rfl⟩
  · exact fun f => ⟨_, _, keepsPort_readStatus, refusesUnchanged_of_ok fun _ => rfl, fun _ => rfl⟩
  · exact fun f => ⟨_, _, keepsPort_nextNotice, refusesUnchanged_nextNotice, fun _ => rfl⟩

/-- What a transaction of such a body leaves where its result is not OK. -/
theorem runCommand_refused {number : Byte} {f : CommandFrame} {ok : Bool} {body : State → Reply × State} {s t : State}
    (hs : s.Released) (hk : KeepsPort body) (hr : RefusesUnchanged body) (ht : runCommand number f ok body s = .next t)
    (hne : t.record.code ≠ .ok) : t = replied s number f t.record.code t.record.payload s := by
  cases ok
  · rw [runCommand_badLength number f body s hs] at ht
    cases ht
    rfl
  · rw [runCommand_ok number f body s hs hk] at ht
    cases ht
    rw [hr _ hne]
    rfl

/-- Settles O8: the row runs a body that keeps the port and refuses without a change. -/
theorem refusalsChangeNothing : Obligations.RefusalsChangeNothing := by
  intro s t number row f hs hn hr ht hne
  obtain ⟨ok, body, hkeeps, hrefuses, hexec⟩ := runsBody_of_catalogue hn hr f
  rw [hexec] at ht
  exact runCommand_refused hs hkeeps hrefuses ht hne

end Sys2Proof.Machine
end

section
/-! The statements on the staging commands (R47 to R56). -/

namespace Sys2Proof.Machine

/-! ### The refusals by the state of the surface (R47) -/

theorem Surface.stagingRefusal_state {r : Surface} (h : r.state = .vacant ∨ r.state = .retiring) :
    r.stagingRefusal = some .state := by
  rcases h with h | h <;> simp [Surface.stagingRefusal, h]

theorem Surface.stagingRefusal_locked {r : Surface} (h : r.state = .live) (hp : r.commitPending = true) :
    r.stagingRefusal = some .locked := by
  simp [Surface.stagingRefusal, h, hp]

/-- A staging command on a surface that refuses it by its state, whatever stands behind the surface number. -/
theorem runOnStaging_refused {number : Byte} {f : CommandFrame} {k : Nat} {body : SurfaceId → State → Reply × State}
    {s : State} {n : SurfaceId} {rest : List Byte} {c : ResultCode} (hs : s.Released) (hb : ∀ n, KeepsPort (body n))
    (hp : f.payload = byteOf n.val :: rest) (hk : (f.payload.length == k) = true)
    (hc : (s.surf n).stagingRefusal = some c) :
    runCommand number f (f.payload.length == k) (onStaging f body) s = .next (replied s number f c [] s) := by
  have hlen : rest.length + 1 = k := by simpa [hp] using hk
  have hguard : guardStaging body n (s.receive (frameBytes number f)) =
      (.bare c, s.receive (frameBytes number f)) := by
    simp only [guardStaging, State.surf_receive, hc]
  rw [onStaging_eq, runOnSurface number f k _ s n rest hs (keepsPort_guardStaging _ hb) hp hlen, hguard]
  rfl

/-- A staging command on a surface that takes it, from what its body answers. -/
theorem runOnStaging_answers {number : Byte} {f : CommandFrame} {k : Nat} {body : SurfaceId → State → Reply × State}
    {s t : State} {n : SurfaceId} {rest : List Byte} {c : ResultCode} {p : List Byte} (hs : s.Released)
    (hb : ∀ n, KeepsPort (body n)) (hp : f.payload = byteOf n.val :: rest) (hk : rest.length + 1 = k)
    (hopen : (s.surf n).StagingOpen)
    (he : body n (s.receive (frameBytes number f)) = (⟨c, p⟩, t.receive (frameBytes number f))) :
    runCommand number f (f.payload.length == k) (onStaging f body) s = .next (replied s number f c p t) := by
  rw [runOnStaging number f k body s n rest hs hb hp hk hopen, he]
  rfl

/-- Each staging command checks the state of its surface, once its payload has the row's length. -/
theorem exec_stagingRow {number : Byte} {row : CommandFrame → Instr} (hn : number ∈ stagingRows)
    (hr : catalogue number = some row) :
    ∃ (k : Nat) (body : CommandFrame → SurfaceId → State → Reply × State), (∀ f n, KeepsPort (body f n)) ∧
      ∀ f s, payloadFits number f = (f.payload.length == k) ∧
        exec (row f) s = runCommand number f (f.payload.length == k) (onStaging f (body f)) s := by
  simp only [stagingRows, List.mem_cons, List.not_mem_nil, or_false] at hn
  rcases hn with rfl | rfl | rfl | rfl | rfl | rfl | rfl <;> cases hr
  · exact ⟨28, addItem, keepsPort_addItem, fun _ _ => ⟨rfl, rfl⟩⟩
  · exact ⟨29, setItem, keepsPort_setItem, fun _ _ => ⟨rfl, rfl⟩⟩
  · exact ⟨2, removeItem, keepsPort_removeItem, fun _ _ => ⟨rfl, rfl⟩⟩
  · exact ⟨3, moveItem, keepsPort_moveItem, fun _ _ => ⟨rfl, rfl⟩⟩
  · exact ⟨1, fun _ => clearStaged, fun _ => keepsPort_clearStaged, fun _ _ => ⟨rfl, rfl⟩⟩
  · exact ⟨1, fun _ => cloneActive, fun _ => keepsPort_cloneActive, fun _ _ => ⟨rfl, rfl⟩⟩
  · exact ⟨2, selectPage, keepsPort_selectPage, fun _ _ => ⟨rfl, rfl⟩⟩

theorem cloneActive_notLive {n : SurfaceId} {u : State} (h : (u.surf n).state ≠ .live) :
    cloneActive n u = (.bare .state, u) := if_neg h

/-- CLONE ACTIVE on a DEFINED surface passes the checks of R47 and is refused by its own (R54). -/
theorem exec_cloneActive_defined {s : State} {f : CommandFrame} {n : SurfaceId} (hs : s.Released)
    (hp : f.payload = [byteOf n.val]) (hd : (s.surf n).state = .defined) :
    exec (.cloneActive f) s = .next (replied s 0x25 f .state [] s) := by
  have hnot : ((s.receive (frameBytes 0x25 f)).surf n).state ≠ .live := by rw [State.surf_receive, hd]; decide
  exact runOnStaging_answers hs keepsPort_cloneActive hp rfl (.inl hd) (cloneActive_notLive hnot)

/-- Settles O18: the checks of R47 stand before the body of every staging command. -/
theorem stagingRefusedByState : Obligations.StagingRefusedByState := by
  intro s number row f n rest hs hn hr hfit hp
  obtain ⟨k, body, hkeeps, hrow⟩ := exec_stagingRow hn hr
  obtain ⟨hlen, hexec⟩ := hrow f s
  have hk : (f.payload.length == k) = true := hlen ▸ hfit
  refine ⟨fun hst => ?_, fun hst hpend => ?_, fun hclone hst => ?_⟩
  · rw [hexec]
    exact runOnStaging_refused hs (hkeeps f) hp hk (Surface.stagingRefusal_state hst)
  · rw [hexec]
    exact runOnStaging_refused hs (hkeeps f) hp hk (Surface.stagingRefusal_locked hst hpend)
  · subst hclone
    cases hr
    have hrest : rest = [] := by simpa [payloadFits, hp] using hfit
    exact exec_cloneActive_defined hs (hrest ▸ hp) hst

/-! ### ADD ITEM (R48, R49) -/

theorem addItem_badArg {f : CommandFrame} {u : State} (n : SurfaceId) (h : itemOf (argBytes f 1 27) = none) :
    addItem f n u = (.bare .badArg, u) := by
  simp only [addItem, h]

section
variable {f : CommandFrame} {n : SurfaceId} {u : State} {it : Item} (hit : itemOf (argBytes f 1 27) = some it)
include hit

theorem addItem_locked (hr : it.isRedact = true) (hb : u.bypass = true) : addItem f n u = (.bare .locked, u) := by
  simp only [addItem, hit, hr, hb, Bool.and_self, if_true]

theorem addItem_listFull (hr : (it.isRedact && u.bypass) = false) (hl : 16 ≤ (u.surf n).staged.length) :
    addItem f n u = (.bare .listFull, u) := by
  simp only [addItem, hit, hr, Bool.false_eq_true, if_false, Config.listCapacity, if_pos hl]

theorem addItem_noItem (hr : (it.isRedact && u.bypass) = false) (hl : (u.surf n).staged.length < 16)
    (hf : u.freeCount = 0) : addItem f n u = (.bare .noItem, u) := by
  simp only [addItem, hit, hr, Bool.false_eq_true, if_false, Config.listCapacity, if_neg (Nat.not_le.mpr hl), if_pos hf]

theorem addItem_done (hr : (it.isRedact && u.bypass) = false) (hl : (u.surf n).staged.length < 16)
    (hf : 0 < u.freeCount) :
    addItem f n u = (⟨.ok, [byteOf (u.surf n).staged.length, byteOf (u.freeCount - 1)]⟩, u.itemAdded n it) := by
  simp only [addItem, hit, hr, Bool.false_eq_true, if_false, Config.listCapacity, if_neg (Nat.not_le.mpr hl),
    if_neg hf.ne']
  rfl

end

/-- Settles O19: the checks in the order of R48, then the item in a record of its own. -/
theorem addItemAppends : Obligations.AddItemAppends := by
  intro s f n desc hs hp hl hopen
  have hrun {c : ResultCode} {p : List Byte} {t : State}
      (he : addItem f n (s.receive (frameBytes 0x20 f)) = (⟨c, p⟩, t.receive (frameBytes 0x20 f))) :
      exec (.addItem f) s = .next (replied s 0x20 f c p t) :=
    runOnStaging_answers hs (keepsPort_addItem f) hp (by omega) hopen he
  rw [← argBytes_tail hp hl]
  refine ⟨fun hnone => hrun (addItem_badArg n hnone), fun it hsome => ⟨fun hr hb => ?_, fun hpass => ?_⟩⟩
  · exact hrun (addItem_locked hsome hr hb)
  · have hguard : (it.isRedact && s.bypass) = false := Bool.and_eq_false_iff.mpr hpass
    refine ⟨fun hfull => ?_, fun hroom hfree => ?_, fun hroom hfree => ?_⟩
    · exact hrun (addItem_listFull hsome hguard hfull)
    · exact hrun (addItem_noItem hsome hguard hroom hfree)
    · obtain ⟨honly, hcounts, htable⟩ := s.restages_itemAdded n it
      exact ⟨s.itemAdded n it, hrun (addItem_done hsome hguard hroom hfree), honly, hcounts, htable⟩

/-! ### SET ITEM (R50) -/

theorem argBytes_tail_two {f : CommandFrame} {a b : Byte} {desc : List Byte} {k : Nat}
    (hp : f.payload = a :: b :: desc) (hk : desc.length = k) : argBytes f 2 k = desc := by
  rw [argBytes, hp, List.drop_succ_cons, List.drop_succ_cons, List.drop_zero, ← hk, List.take_length]

theorem arg_one {f : CommandFrame} {a b : Byte} {rest : List Byte} (hp : f.payload = a :: b :: rest) :
    arg f 1 = b := by rw [arg, hp]; rfl

theorem arg_two {f : CommandFrame} {a b c : Byte} {rest : List Byte} (hp : f.payload = a :: b :: c :: rest) :
    arg f 2 = c := by rw [arg, hp]; rfl

theorem setItem_badArg {f : CommandFrame} {n : SurfaceId} {u : State}
    (h : (u.surf n).staged.length ≤ (arg f 1).toNat ∨ itemOf (argBytes f 2 27) = none) :
    setItem f n u = (.bare .badArg, u) := by
  rcases h with h | h
  · simp only [setItem, List.getElem?_eq_none h]
  · cases hold : (u.surf n).staged[(arg f 1).toNat]? <;> simp only [setItem, hold, h]

section
variable {f : CommandFrame} {n : SurfaceId} {u : State} {old it : Item}
  (hold : (u.surf n).staged[(arg f 1).toNat]? = some old) (hit : itemOf (argBytes f 2 27) = some it)
include hold hit

theorem setItem_locked (hr : it.isRedact = true) (hb : u.bypass = true) : setItem f n u = (.bare .locked, u) := by
  simp only [setItem, hold, hit, hr, hb, Bool.and_self, if_true]

theorem setItem_done (hr : (it.isRedact && u.bypass) = false) :
    setItem f n u = (.done, u.itemSet n (arg f 1).toNat old it) := by
  simp only [setItem, hold, hit, hr, Bool.false_eq_true, if_false]
  rfl

end

theorem State.itemSet_receive (s : State) (bytes : List Byte) (n : SurfaceId) (pos : Nat) (old it : Item) :
    (s.receive bytes).itemSet n pos old it = (s.itemSet n pos old it).receive bytes := by
  simp only [State.itemSet, State.setStaged, State.surf_swapItem, State.surf_receive]
  rfl

/-- Settles O20: the position and the description are checked, then the record takes the description. -/
theorem setItemReplaces : Obligations.SetItemReplaces := by
  intro s f n pos desc hs hp hl hopen
  have hrun {c : ResultCode} {p : List Byte} {t : State}
      (he : setItem f n (s.receive (frameBytes 0x21 f)) = (⟨c, p⟩, t.receive (frameBytes 0x21 f))) :
      exec (.setItem f) s = .next (replied s 0x21 f c p t) :=
    runOnStaging_answers hs (keepsPort_setItem f) hp (by simp [hl]) hopen he
  rw [← argBytes_tail_two hp hl, ← arg_one hp]
  refine ⟨fun hbad => hrun (setItem_badArg hbad), fun old it hold hsome => ⟨fun hr hb => ?_, fun hpass => ?_⟩⟩
  · exact hrun (setItem_locked hold hsome hr hb)
  · have hguard : (it.isRedact && s.bypass) = false := Bool.and_eq_false_iff.mpr hpass
    obtain ⟨honly, hcounts, htable⟩ := s.restages_itemSet n (arg f 1).toNat old it
    refine ⟨s.itemSet n (arg f 1).toNat old it, hrun ?_, honly, hcounts, htable⟩
    rw [setItem_done (u := s.receive _) hold hsome hguard, State.itemSet_receive]
    rfl

/-! ### REMOVE ITEM and CLEAR STAGED (R51, R53) -/

theorem removeItem_badArg {f : CommandFrame} {n : SurfaceId} {u : State}
    (h : (u.surf n).staged.length ≤ (arg f 1).toNat) : removeItem f n u = (.bare .badArg, u) := by
  simp only [removeItem, List.getElem?_eq_none h]

theorem removeItem_done {f : CommandFrame} {n : SurfaceId} {u : State} {old : Item}
    (h : (u.surf n).staged[(arg f 1).toNat]? = some old) :
    removeItem f n u = (⟨.ok, [byteOf (u.freeCount + 1)]⟩, u.itemRemoved n (arg f 1).toNat old) := by
  simp only [removeItem, h]
  rfl

theorem removeItem_replies (s : State) (f : CommandFrame) (n : SurfaceId) (pos : Byte) (hs : s.Released)
    (hp : f.payload = [byteOf n.val, pos]) (hopen : (s.surf n).StagingOpen) :
    ((s.surf n).staged.length ≤ pos.toNat → exec (.removeItem f) s = .next (replied s 0x22 f .badArg [] s)) ∧
      ∀ old, (s.surf n).staged[pos.toNat]? = some old →
        exec (.removeItem f) s = .next
          (replied s 0x22 f .ok [byteOf (s.freeCount + 1)] (s.itemRemoved n pos.toNat old)) := by
  have hrun {c : ResultCode} {p : List Byte} {t : State}
      (he : removeItem f n (s.receive (frameBytes 0x22 f)) = (⟨c, p⟩, t.receive (frameBytes 0x22 f))) :
      exec (.removeItem f) s = .next (replied s 0x22 f c p t) :=
    runOnStaging_answers hs (keepsPort_removeItem f) hp rfl hopen he
  rw [← arg_one hp]
  exact ⟨fun hbad => hrun (removeItem_badArg hbad), fun old hold => hrun (removeItem_done hold)⟩

theorem getElem?_between {below above : List Item} {it : Item} {i : Nat} (h : below.length = i) :
    (below ++ it :: above)[i]? = some it := by
  subst h
  simp

theorem eraseIdx_between {below above : List Item} {it : Item} {i : Nat} (h : below.length = i) :
    (below ++ it :: above).eraseIdx i = below ++ above := by
  subst h
  simp [List.eraseIdx_append_of_length_le]

/-- Settles O21: REMOVE ITEM by the position it names; CLEAR STAGED always. -/
theorem removeAndClearFree : Obligations.RemoveAndClearFree := by
  refine ⟨fun s f n pos hs hp hopen => ?_, fun s f n hs hp hopen => ?_⟩
  · obtain ⟨hbad, hdone⟩ := removeItem_replies s f n pos hs hp hopen
    refine ⟨hbad, fun below above it hsplit hpos => ?_⟩
    obtain ⟨honly, hcounts, htable⟩ := s.restages_itemRemoved n pos.toNat it
    rw [hsplit, eraseIdx_between hpos] at htable
    exact ⟨_, hdone it (hsplit ▸ getElem?_between hpos), honly, hcounts, htable⟩
  · obtain ⟨honly, hcounts, htable⟩ := s.restages_stagedCleared n
    have hanswer : clearStaged n (s.receive (frameBytes 0x24 f)) =
        (⟨.ok, [byteOf (s.freeCount + (s.surf n).staged.length)]⟩,
          (s.stagedCleared n).receive (frameBytes 0x24 f)) := rfl
    exact ⟨_, runOnStaging_answers hs keepsPort_clearStaged hp rfl hopen hanswer, honly, hcounts, htable⟩

/-! ### MOVE ITEM and SELECT PAGE (R52, R56) -/

theorem moveItem_badArg {f : CommandFrame} {n : SurfaceId} {u : State}
    (h : (u.surf n).staged.length ≤ (arg f 1).toNat ∨ (u.surf n).staged.length ≤ (arg f 2).toNat) :
    moveItem f n u = (.bare .badArg, u) := by
  rcases h with h | h
  · simp only [moveItem, List.getElem?_eq_none h]
  · cases hi : (u.surf n).staged[(arg f 1).toNat]? <;> simp only [moveItem, hi, if_neg (Nat.not_lt.mpr h)]

theorem moveItem_done {f : CommandFrame} {n : SurfaceId} {u : State} {it : Item}
    (hi : (u.surf n).staged[(arg f 1).toNat]? = some it) (hj : (arg f 2).toNat < (u.surf n).staged.length) :
    moveItem f n u = (.done, u.itemMoved n (arg f 1).toNat (arg f 2).toNat it) := by
  simp only [moveItem, hi, if_pos hj]
  rfl

/-- A list with the item at position `i` taken out and placed at position `j`, position by position. -/
theorem getElem?_moved {items : List Item} {i j : Nat} {it : Item} (hi : items[i]? = some it) (hj : j < items.length)
    (k : Nat) :
    ((items.eraseIdx i).insertIdx j it)[k]? =
      if k = j then items[i]?
      else if i ≤ k ∧ k < j then items[k + 1]?
      else if j < k ∧ k ≤ i then items[k - 1]?
      else items[k]? := by
  have hlt : i < items.length := (List.getElem?_eq_some_iff.mp hi).1
  have hlen : (items.eraseIdx i).length = items.length - 1 := List.length_eraseIdx_of_lt hlt
  rw [List.getElem?_insertIdx]
  rcases Nat.lt_trichotomy k j with hkj | rfl | hjk
  · rw [if_pos hkj, if_neg hkj.ne, List.getElem?_eraseIdx]
    by_cases hki : k < i
    · rw [if_pos hki, if_neg (by omega), if_neg (by omega)]
    · rw [if_neg hki, if_pos (by omega)]
  · rw [if_neg (Nat.lt_irrefl k), if_pos rfl, if_pos (by omega), if_pos rfl, hi]
  · rw [if_neg (by omega), if_neg hjk.ne', if_neg hjk.ne', if_neg (by omega), List.getElem?_eraseIdx]
    by_cases hki : k ≤ i
    · rw [if_pos (by omega), if_pos (by omega)]
    · rw [if_neg (by omega), if_neg (by omega), Nat.sub_add_cancel (by omega)]

theorem moveItem_replies (s : State) (f : CommandFrame) (n : SurfaceId) (i j : Byte) (hs : s.Released)
    (hp : f.payload = [byteOf n.val, i, j]) (hopen : (s.surf n).StagingOpen) :
    ((s.surf n).staged.length ≤ i.toNat ∨ (s.surf n).staged.length ≤ j.toNat →
        exec (.moveItem f) s = .next (replied s 0x23 f .badArg [] s)) ∧
      ∀ it, (s.surf n).staged[i.toNat]? = some it → j.toNat < (s.surf n).staged.length →
        exec (.moveItem f) s = .next (replied s 0x23 f .ok [] (s.itemMoved n i.toNat j.toNat it)) := by
  have hrun {c : ResultCode} {p : List Byte} {t : State}
      (he : moveItem f n (s.receive (frameBytes 0x23 f)) = (⟨c, p⟩, t.receive (frameBytes 0x23 f))) :
      exec (.moveItem f) s = .next (replied s 0x23 f c p t) :=
    runOnStaging_answers hs (keepsPort_moveItem f) hp rfl hopen he
  rw [← arg_one hp, ← arg_two hp]
  exact ⟨fun hbad => hrun (moveItem_badArg hbad), fun it hi hj => hrun (moveItem_done hi hj)⟩

/-- A byte above the values of an enumeration is none of them (R179). -/
theorem byte_ne_of_above {b k : Byte} {m : Nat} (h : m < b.toNat) (hk : k.toNat ≤ m) : b ≠ k := by
  rintro rfl
  omega

theorem pageOf_none {b : Byte} (h : 1 < b.toNat) : pageOf b = none := by
  rw [pageOf, if_neg (byte_ne_of_above h (by decide)), if_neg (byte_ne_of_above h (by decide))]

theorem selectPage_badArg {f : CommandFrame} {u : State} (n : SurfaceId) (h : pageOf (arg f 1) = none) :
    selectPage f n u = (.bare .badArg, u) := by
  simp only [selectPage, h]

theorem selectPage_done {f : CommandFrame} {u : State} (n : SurfaceId) {p : Page} (h : pageOf (arg f 1) = some p) :
    selectPage f n u = (.done, u.setSurf n { u.surf n with stagedPage := some p }) := by
  simp only [selectPage, h]

/-- Settles O22: MOVE ITEM position by position; SELECT PAGE by the value it names. -/
theorem moveItemAndSelectPage : Obligations.MoveItemAndSelectPage := by
  refine ⟨fun s f n i j hs hp hopen => ?_, fun s f n page hs hp hopen => ?_⟩
  · obtain ⟨hbad, hdone⟩ := moveItem_replies s f n i j hs hp hopen
    refine ⟨hbad, fun hi hj => ?_⟩
    have hit := List.getElem?_eq_getElem hi
    exact ⟨_, hdone _ hit hj, length_moved hit hj, getElem?_moved hit hj⟩
  · have hrun {c : ResultCode} {p : List Byte} {t : State}
        (he : selectPage f n (s.receive (frameBytes 0x26 f)) = (⟨c, p⟩, t.receive (frameBytes 0x26 f))) :
        exec (.selectPage f) s = .next (replied s 0x26 f c p t) :=
      runOnStaging_answers hs (keepsPort_selectPage f) hp rfl hopen he
    rw [← arg_one hp]
    refine ⟨fun ha => hrun (selectPage_done n ?_), fun hb => hrun (selectPage_done n ?_), fun hbad => ?_⟩
    · rw [ha]; rfl
    · rw [hb]; rfl
    · exact hrun (selectPage_badArg n (pageOf_none hbad))

/-! ### CLONE ACTIVE (R54) -/

theorem cloneActive_noItem {n : SurfaceId} {u : State} (h : (u.surf n).state = .live)
    (hf : u.freeCount < (u.surf n).active.length - (u.surf n).staged.length) :
    cloneActive n u =
      (⟨.noItem, [byteOf ((u.surf n).active.length - (u.surf n).staged.length), byteOf u.freeCount]⟩, u) := by
  simp only [cloneActive, if_pos h, if_pos hf]

theorem cloneActive_done {n : SurfaceId} {u : State} (h : (u.surf n).state = .live)
    (hf : (u.surf n).active.length - (u.surf n).staged.length ≤ u.freeCount) :
    cloneActive n u =
      (⟨.ok, [byteOf (u.surf n).active.length,
        byteOf (u.freeCount + (u.surf n).staged.length - (u.surf n).active.length)]⟩, u.activeCloned n) := by
  simp only [cloneActive, if_pos h, if_neg (Nat.not_lt.mpr hf)]
  rfl

/-- CLONE ACTIVE on a surface that is not LIVE: by R47 on a VACANT or RETIRING one, by R54 on a DEFINED one. -/
theorem exec_cloneActive_notLive {s : State} {f : CommandFrame} {n : SurfaceId} (hs : s.Released)
    (hp : f.payload = [byteOf n.val]) (h : (s.surf n).state ≠ .live) :
    exec (.cloneActive f) s = .next (replied s 0x25 f .state [] s) := by
  have hrefused (hst : (s.surf n).state = .vacant ∨ (s.surf n).state = .retiring) :
      exec (.cloneActive f) s = .next (replied s 0x25 f .state [] s) :=
    runOnStaging_refused (k := 1) hs keepsPort_cloneActive hp (by simp [hp]) (Surface.stagingRefusal_state hst)
  cases hst : (s.surf n).state with
  | vacant => exact hrefused (.inl hst)
  | defined => exact exec_cloneActive_defined hs hp hst
  | live => contradiction
  | retiring => exact hrefused (.inr hst)

/-- Settles O23: by the state of the surface, then by the records that the pool has for the copies. -/
theorem cloneActiveCopies : Obligations.CloneActiveCopies := by
  intro s f n hs hp
  have hrun {c : ResultCode} {p : List Byte} {t : State} (hl : (s.surf n).state = .live)
      (hc : (s.surf n).commitPending = false)
      (he : cloneActive n (s.receive (frameBytes 0x25 f)) = (⟨c, p⟩, t.receive (frameBytes 0x25 f))) :
      exec (.cloneActive f) s = .next (replied s 0x25 f c p t) :=
    runOnStaging_answers hs keepsPort_cloneActive hp rfl (.inr ⟨hl, hc⟩) he
  refine ⟨exec_cloneActive_notLive hs hp, fun hl hc => ?_, fun hl hc hf => ?_, fun hl hc hf => ?_⟩
  · exact runOnStaging_refused (k := 1) hs keepsPort_cloneActive hp (by simp [hp]) (Surface.stagingRefusal_locked hl hc)
  · exact hrun hl hc (cloneActive_noItem hl hf)
  · obtain ⟨honly, hcounts, htable⟩ := s.restages_activeCloned n
    exact ⟨s.activeCloned n, hrun hl hc (cloneActive_done hl hf), honly, hcounts, htable⟩

end Sys2Proof.Machine
end

section
/-! Item descriptions in their 27 bytes (R42, R43, R181), and READ ITEM (R57). -/

namespace Sys2Proof.Machine

/-! ### The parts of a description by their places -/

theorem numAt_skip_beBytes {k n : Nat} (rest : List Byte) {i j : Nat} (hi : k ≤ i) :
    numAt (beBytes k n ++ rest) i j = numAt rest (i - k) j := numAt_skip (length_beBytes k n) rest hi

theorem numAt_skip_one {b : Byte} (rest : List Byte) {i j : Nat} (hi : 1 ≤ i) :
    numAt ([b] ++ rest) i j = numAt rest (i - 1) j := numAt_skip rfl rest hi

theorem getD_skip_beBytes {k n : Nat} (rest : List Byte) {i : Nat} (hi : k ≤ i) :
    (beBytes k n ++ rest).getD i 0 = rest.getD (i - k) 0 := getD_skip (length_beBytes k n) rest hi

theorem getD_skip_one {b : Byte} (rest : List Byte) {i : Nat} (hi : 1 ≤ i) :
    ([b] ++ rest).getD i 0 = rest.getD (i - 1) 0 := getD_skip rfl rest hi

/-- A colour is the number of its four bytes (R181). -/
theorem ofNat_numAt_colour (c : Colour) (rest : List Byte) :
    BitVec.ofNat 32 (numAt (colourBytes c ++ rest) 0 4) = c := by
  rw [colourBytes, numAt_here c.isLt, BitVec.ofNat_toNat, BitVec.setWidth_eq]

theorem blendOf_byte (bl : Blend) : blendOf bl.byte = some bl := by cases bl <;> decide

theorem blendOf_none {b : Byte} (h : 1 < b.toNat) : blendOf b = none := by
  rw [blendOf, if_neg (byte_ne_of_above h (by decide)), if_neg (byte_ne_of_above h (by decide))]

theorem slotOf_none {b : Byte} (h : 63 < b.toNat) : slotOf b = none := dif_neg (by omega)

theorem selectorOf_none {b : Byte} (h : 1 < b.toNat) : selectorOf b = none := by
  rw [selectorOf, if_neg (byte_ne_of_above h (by decide)), if_neg (byte_ne_of_above h (by decide))]

/-! ### A description by its kind (R43) -/

theorem itemOf_kindText {bytes : List Byte} (h : bytes.getD 0 0 = 0x01) : itemOf bytes = (textOf bytes).map .text :=
  if_pos h

theorem itemOf_kindBox {bytes : List Byte} (h : bytes.getD 0 0 = 0x02) :
    itemOf bytes = (rectOf bytes).bind fun r => (blendOf (bytes.getD 26 0)).map (.box r) := by
  rw [itemOf, h, if_neg (by decide), if_pos rfl]
  cases rectOf bytes <;> cases blendOf (bytes.getD 26 0) <;> rfl

theorem itemOf_kindRedact {bytes : List Byte} (h : bytes.getD 0 0 = 0x03) :
    itemOf bytes = (rectOf bytes).map .redact := by
  rw [itemOf, h, if_neg (by decide), if_neg (by decide), if_pos rfl]

/-! ### The description of a rectangle (R42, R181) -/

/-- The bytes of a BOX or REDACT description: the bytes `mid` and `tail` belong to fields that the kind does not
hold. -/
def rectDesc (kind : Byte) (r : RectItem) (mid tail : List Byte) (last : Byte) : List Byte :=
  [kind] ++ (beBytes 2 r.x ++ (beBytes 2 r.y ++ (beBytes 2 r.w ++ (beBytes 2 r.h ++ (mid ++ (colourBytes r.ink ++
    (tail ++ [last])))))))

theorem itemBytes_box (r : RectItem) (bl : Blend) :
    itemBytes (.box r bl) = rectDesc 0x02 r (List.replicate 5 0x00) (List.replicate 8 0x00) bl.byte := by
  simp only [itemBytes, rectDesc, List.append_assoc]

theorem itemBytes_redact (r : RectItem) :
    itemBytes (.redact r) = rectDesc 0x03 r (List.replicate 5 0x00) (List.replicate 8 0x00) 0x00 := by
  simp only [itemBytes, rectDesc, List.append_assoc]

/-- The values of a rectangle lie in their ranges (R42). -/
abbrev RectItem.InRange (r : RectItem) : Prop :=
  r.x ≤ 4095 ∧ r.y ≤ 4095 ∧ 1 ≤ r.w ∧ r.w ≤ 4096 ∧ 1 ≤ r.h ∧ r.h ≤ 4096

/-- The values of a rectangle fit the two bytes of each. -/
structure RectItem.Fits (r : RectItem) : Prop where
  x : r.x < 65536
  y : r.y < 65536
  w : r.w < 65536
  h : r.h < 65536

theorem RectItem.InRange.fits {r : RectItem} (h : r.InRange) : r.Fits := by
  obtain ⟨hx, hy, -, hw, -, hh⟩ := h
  exact ⟨by omega, by omega, by omega, by omega⟩

theorem Item.legal_box_iff (r : RectItem) (bl : Blend) : (Item.box r bl).legal = true ↔ r.InRange := by
  simp [Item.legal, RectItem.InRange, and_assoc]

theorem Item.legal_redact_iff (r : RectItem) : (Item.redact r).legal = true ↔ r.InRange := by
  simp [Item.legal, RectItem.InRange, and_assoc]

section
variable {kind : Byte} {r : RectItem} {mid tail : List Byte} (hmid : mid.length = 5) (htail : tail.length = 8)
include hmid

theorem rectOf_rectDesc (last : Byte) (h : r.Fits) :
    rectOf (rectDesc kind r mid tail last) = if r.InRange then some r else none := by
  obtain ⟨hx, hy, hw, hh⟩ := h
  have hskip (rest : List Byte) {i j : Nat} (hi : 5 ≤ i) : numAt (mid ++ rest) i j = numAt rest (i - 5) j :=
    numAt_skip hmid rest hi
  simp (disch := omega) only [rectOf, rectDesc, colourAt, numAt_skip_one, numAt_skip_beBytes, hskip, Nat.reduceSub,
    numAt_here, ofNat_numAt_colour]

include htail

theorem getD_rectDesc_last (last : Byte) : (rectDesc kind r mid tail last).getD 26 0 = last := by
  have hskip (rest : List Byte) {i : Nat} (hi : 5 ≤ i) : (mid ++ rest).getD i 0 = rest.getD (i - 5) 0 :=
    getD_skip hmid rest hi
  have hskip' (rest : List Byte) {i : Nat} (hi : 8 ≤ i) : (tail ++ rest).getD i 0 = rest.getD (i - 8) 0 :=
    getD_skip htail rest hi
  simp (disch := omega) only [rectDesc, colourBytes, getD_skip_one, getD_skip_beBytes, hskip, hskip', Nat.reduceSub]
  rfl

theorem length_rectDesc (last : Byte) : (rectDesc kind r mid tail last).length = 27 := by
  simp only [rectDesc, colourBytes, List.length_append, List.length_cons, List.length_nil, length_beBytes, hmid, htail]

end

/-- A BOX description is read back, with its blend, exactly when its rectangle is in range. -/
theorem itemOf_box {r : RectItem} {mid tail : List Byte} (hmid : mid.length = 5) (htail : tail.length = 8)
    (bl : Blend) (h : r.Fits) :
    itemOf (rectDesc 0x02 r mid tail bl.byte) = if r.InRange then some (.box r bl) else none := by
  rw [itemOf_kindBox rfl, rectOf_rectDesc hmid _ h, getD_rectDesc_last hmid htail, blendOf_byte]
  split <;> rfl

/-- A REDACT description is read back exactly when its rectangle is in range, whatever its last byte says. -/
theorem itemOf_redact {r : RectItem} {mid : List Byte} (hmid : mid.length = 5) (tail : List Byte) (last : Byte)
    (h : r.Fits) :
    itemOf (rectDesc 0x03 r mid tail last) = if r.InRange then some (.redact r) else none := by
  rw [itemOf_kindRedact rfl, rectOf_rectDesc hmid _ h]
  split <;> rfl

/-! ### The description of a text (R42, R181) -/

/-- The bytes of a TEXT description: the bytes `extent` belong to the width and the height, which the kind does not
hold. -/
def textDesc (t : TextItem) (extent : List Byte) : List Byte :=
  [0x01] ++ (beBytes 2 t.x ++ (beBytes 2 t.y ++ (extent ++ ([0x01] ++ ([byteOf t.slot.val] ++ (beBytes 1 t.scaleX ++
    (beBytes 1 t.scaleY ++ (beBytes 1 t.spacing ++ (colourBytes t.ink ++ (colourBytes t.edge ++
      (colourBytes t.shade ++ [t.blend.byte])))))))))))

theorem itemBytes_text (t : TextItem) : itemBytes (.text t) = textDesc t (List.replicate 4 0x00) := by
  simp only [itemBytes, textDesc, List.append_assoc]
  rfl

theorem textDesc_eq (t : TextItem) (extent : List Byte) :
    (itemBytes (.text t)).take 5 ++ extent ++ (itemBytes (.text t)).drop 9 = textDesc t extent := by
  rw [List.append_assoc]
  rfl

/-- The values of a text lie in their ranges (R42). -/
abbrev TextItem.InRange (t : TextItem) : Prop :=
  t.x ≤ 4095 ∧ t.y ≤ 4095 ∧ 1 ≤ t.scaleX ∧ t.scaleX ≤ 4 ∧ 1 ≤ t.scaleY ∧ t.scaleY ≤ 4 ∧ t.spacing ≤ 7

/-- The values of a text fit the bytes that carry them. -/
structure TextItem.Fits (t : TextItem) : Prop where
  x       : t.x < 65536
  y       : t.y < 65536
  scaleX  : t.scaleX < 256
  scaleY  : t.scaleY < 256
  spacing : t.spacing < 256

theorem TextItem.InRange.fits {t : TextItem} (h : t.InRange) : t.Fits := by
  obtain ⟨hx, hy, -, hsx, -, hsy, hgap⟩ := h
  exact ⟨by omega, by omega, by omega, by omega, by omega⟩

theorem Item.legal_text_iff (t : TextItem) : (Item.text t).legal = true ↔ t.InRange := by
  simp [Item.legal, TextItem.InRange, and_assoc]

theorem length_textDesc (t : TextItem) {extent : List Byte} (h : extent.length = 4) :
    (textDesc t extent).length = 27 := by
  simp only [textDesc, colourBytes, List.length_append, List.length_cons, List.length_nil, length_beBytes, h]

/-- The one-byte parts of a TEXT description that are no numbers: the slot's presence, the slot and the blend. -/
theorem getD_textDesc (t : TextItem) {extent : List Byte} (h : extent.length = 4) :
    (textDesc t extent).getD 9 0 = 0x01 ∧ (textDesc t extent).getD 10 0 = byteOf t.slot.val ∧
      (textDesc t extent).getD 26 0 = t.blend.byte := by
  have hskip (rest : List Byte) {i : Nat} (hi : 4 ≤ i) : (extent ++ rest).getD i 0 = rest.getD (i - 4) 0 :=
    getD_skip h rest hi
  refine ⟨?_, ?_, ?_⟩ <;>
    simp (disch := omega) only [textDesc, colourBytes, getD_skip_one, getD_skip_beBytes, hskip, Nat.reduceSub] <;> rfl

/-- A TEXT description is read back exactly when its values are in range. -/
theorem textOf_textDesc {t : TextItem} {extent : List Byte} (hext : extent.length = 4) (h : t.Fits) :
    textOf (textDesc t extent) = if t.InRange then some t else none := by
  obtain ⟨hx, hy, hsx, hsy, hgap⟩ := h
  obtain ⟨hpresent, hslot, hblend⟩ := getD_textDesc t hext
  have hskip (rest : List Byte) {i j : Nat} (hi : 4 ≤ i) : numAt (extent ++ rest) i j = numAt rest (i - 4) j :=
    numAt_skip hext rest hi
  have hcolour (c : Colour) (rest : List Byte) {i j : Nat} (hi : 4 ≤ i) :
      numAt (colourBytes c ++ rest) i j = numAt rest (i - 4) j := numAt_skip_beBytes rest hi
  simp only [textOf, hpresent, hslot, hblend, slotOf_byteOf, blendOf_byte]
  simp (disch := omega) only [textDesc, colourAt, numAt_skip_one, numAt_skip_beBytes, hskip, hcolour, Nat.reduceSub,
    numAt_here, ofNat_numAt_colour, true_and]

theorem itemOf_text {t : TextItem} {extent : List Byte} (hext : extent.length = 4) (h : t.Fits) :
    itemOf (textDesc t extent) = if t.InRange then some (.text t) else none := by
  rw [itemOf_kindText rfl, textOf_textDesc hext h]
  split <;> rfl

/-! ### Reading back, and what is not read (R42, R43) -/

theorem itemBytes_length (it : Item) : (itemBytes it).length = 27 := by
  cases it with
  | text t => rw [itemBytes_text]; exact length_textDesc t rfl
  | box r bl => rw [itemBytes_box]; exact length_rectDesc rfl rfl _
  | redact r => rw [itemBytes_redact]; exact length_rectDesc rfl rfl _

theorem itemOf_itemBytes {it : Item} (h : it.legal = true) : itemOf (itemBytes it) = some it := by
  cases it with
  | text t =>
    have hin := (Item.legal_text_iff t).mp h
    rw [itemBytes_text, itemOf_text rfl hin.fits, if_pos hin]
  | box r bl =>
    have hin := (Item.legal_box_iff r bl).mp h
    rw [itemBytes_box, itemOf_box rfl rfl bl hin.fits, if_pos hin]
  | redact r =>
    have hin := (Item.legal_redact_iff r).mp h
    rw [itemBytes_redact, itemOf_redact rfl _ _ hin.fits, if_pos hin]

/-- The values of an item fit the bytes that carry them. -/
def Item.Fits : Item → Prop
  | .text t => t.Fits
  | .box r _ => r.Fits
  | .redact r => r.Fits

theorem itemOf_itemBytes_illegal {it : Item} (h : it.legal = false) (hf : it.Fits) : itemOf (itemBytes it) = none := by
  cases it with
  | text t =>
    have hout : ¬t.InRange := by rw [← Item.legal_text_iff, h]; decide
    rw [itemBytes_text, itemOf_text rfl hf, if_neg hout]
  | box r bl =>
    have hout : ¬r.InRange := by rw [← Item.legal_box_iff r bl, h]; decide
    rw [itemBytes_box, itemOf_box rfl rfl bl hf, if_neg hout]
  | redact r =>
    have hout : ¬r.InRange := by rw [← Item.legal_redact_iff, h]; decide
    rw [itemBytes_redact, itemOf_redact rfl _ _ hf, if_neg hout]

/-- Another kind than TEXT, BOX and REDACT. -/
theorem itemOf_otherKind {desc : List Byte} (h : desc.getD 0 0 = 0x00 ∨ 3 < (desc.getD 0 0).toNat) :
    itemOf desc = none := by
  have hne : ∀ k : Byte, 1 ≤ k.toNat → k.toNat ≤ 3 → desc.getD 0 0 ≠ k := by
    intro k h1 h3 hk
    rw [hk] at h
    rcases h with rfl | h
    · exact absurd h1 (by decide)
    · omega
  simp only [itemOf, if_neg (hne 0x01 (by decide) (by decide)), if_neg (hne 0x02 (by decide) (by decide)),
    if_neg (hne 0x03 (by decide) (by decide))]

/-- A TEXT description whose slot is absent or out of range, or whose blend is out of range. -/
theorem textOf_none {desc : List Byte}
    (h : desc.getD 9 0 ≠ 0x01 ∨ 63 < (desc.getD 10 0).toNat ∨ 1 < (desc.getD 26 0).toNat) : textOf desc = none := by
  unfold textOf
  dsimp only
  split
  · rename_i hranges
    obtain ⟨-, -, hpresent, -⟩ := hranges
    rcases h with h | h | h
    · exact absurd hpresent h
    · rw [slotOf_none h]
    · rw [blendOf_none h]
      cases slotOf (desc.getD 10 0) <;> rfl
  · rfl

theorem itemOf_badEnum {desc : List Byte}
    (h : (desc.getD 0 0 = 0x01 ∧
          (desc.getD 9 0 ≠ 0x01 ∨ 63 < (desc.getD 10 0).toNat ∨ 1 < (desc.getD 26 0).toNat)) ∨
        (desc.getD 0 0 = 0x02 ∧ 1 < (desc.getD 26 0).toNat)) : itemOf desc = none := by
  rcases h with ⟨hkind, hbad⟩ | ⟨hkind, hbad⟩
  · rw [itemOf_kindText hkind, textOf_none hbad, Option.map_none]
  · rw [itemOf_kindBox hkind, blendOf_none hbad]
    cases rectOf desc <;> rfl

/-! ### READ ITEM (R57) -/

theorem readItem_vacant {n : SurfaceId} {u : State} (f : CommandFrame) (h : (u.surf n).state = .vacant) :
    readItem f n u = (.bare .state, u) := if_pos h

section
variable {f : CommandFrame} {n : SurfaceId} {u : State} (hv : (u.surf n).state ≠ .vacant)
include hv

theorem readItem_badSelector (h : selectorOf (arg f 1) = none) : readItem f n u = (.bare .badArg, u) := by
  simp only [readItem, if_neg hv, h]

variable {sel : ListSelector} (hsel : selectorOf (arg f 1) = some sel)
include hsel

theorem readItem_badPosition (h : ((u.surf n).listOf sel).length ≤ (arg f 2).toNat) :
    readItem f n u = (.bare .badArg, u) := by
  simp only [readItem, if_neg hv, hsel, List.getElem?_eq_none h]

theorem readItem_done {it : Item} (h : ((u.surf n).listOf sel)[(arg f 2).toNat]? = some it) :
    readItem f n u = (⟨.ok, itemBytes it⟩, u) := by
  simp only [readItem, if_neg hv, hsel, h]

end

/-- The selector names the list whose items are `items` (R57, R179). -/
theorem selectorOf_list {sel : Byte} {r : Surface} {items : List Item}
    (h : (sel = 0x00 ∧ items = r.staged) ∨ (sel = 0x01 ∧ items = r.active)) :
    ∃ l, selectorOf sel = some l ∧ r.listOf l = items := by
  rcases h with ⟨rfl, rfl⟩ | ⟨rfl, rfl⟩
  · exact ⟨.staged, rfl, rfl⟩
  · exact ⟨.active, rfl, rfl⟩

theorem readItem_replies (s : State) (f : CommandFrame) (n : SurfaceId) (sel pos : Byte) (hs : s.Released)
    (hp : f.payload = [byteOf n.val, sel, pos]) :
    ((s.surf n).state = .vacant → exec (.readItem f) s = .next (replied s 0x27 f .state [] s)) ∧
      ((s.surf n).state ≠ .vacant →
        (1 < sel.toNat → exec (.readItem f) s = .next (replied s 0x27 f .badArg [] s)) ∧
          ∀ items : List Item,
            (sel = 0x00 ∧ items = (s.surf n).staged) ∨ (sel = 0x01 ∧ items = (s.surf n).active) →
              (items.length ≤ pos.toNat → exec (.readItem f) s = .next (replied s 0x27 f .badArg [] s)) ∧
                ∀ it, items[pos.toNat]? = some it →
                  exec (.readItem f) s = .next (replied s 0x27 f .ok (itemBytes it) s)) := by
  have hrun {c : ResultCode} {p : List Byte}
      (he : readItem f n (s.receive (frameBytes 0x27 f)) = (⟨c, p⟩, s.receive (frameBytes 0x27 f))) :
      exec (.readItem f) s = .next (replied s 0x27 f c p s) := by
    have h := runOnSurface 0x27 f 3 (readItem f) s n _ hs (keepsPort_readItem f) hp rfl
    rw [he] at h
    exact h
  rw [← arg_one hp, ← arg_two hp]
  refine ⟨fun hv => hrun (readItem_vacant f hv), fun hv => ⟨fun hbad => ?_, fun items hitems => ?_⟩⟩
  · exact hrun (readItem_badSelector hv (selectorOf_none hbad))
  · obtain ⟨l, hsel, rfl⟩ := selectorOf_list hitems
    refine ⟨fun hbad => hrun (readItem_badPosition hv hsel hbad), fun it hit => ?_⟩
    exact hrun (readItem_done (u := s.receive _) hv hsel hit)

/-- Settles O24: READ ITEM by its selector and position; a description is read exactly when its kind, its slot and its
values are those of an item, whatever its other bytes say. -/
theorem itemsReadBack : Obligations.ItemsReadBack := by
  refine ⟨readItem_replies, fun it h => ⟨itemBytes_length it, itemOf_itemBytes h⟩, fun t extent h hext => ?_,
    fun r bl mid tail last hmid htail => ?_, fun _ h => itemOf_otherKind h, fun _ h => itemOf_badEnum h,
    fun it h hf => itemOf_itemBytes_illegal h ?_⟩
  · have hin := (Item.legal_text_iff t).mp h
    rw [textDesc_eq, itemOf_text hext hin.fits, if_pos hin]
  · have hdesc (kind b : Byte) :
        kind :: (beBytes 2 r.x ++ beBytes 2 r.y ++ beBytes 2 r.w ++ beBytes 2 r.h ++ mid ++ beBytes 4 r.ink.toNat
          ++ tail) ++ [b] = rectDesc kind r mid tail b := by
      simp only [rectDesc, colourBytes, List.cons_append, List.nil_append, List.append_assoc]
    intro lead
    refine ⟨fun h => ?_, fun h => ?_⟩
    · have hin := (Item.legal_box_iff r bl).mp h
      rw [hdesc, itemOf_box hmid htail bl hin.fits, if_pos hin]
    · have hin := (Item.legal_redact_iff r).mp h
      rw [hdesc, itemOf_redact hmid tail last hin.fits, if_pos hin]
  · cases it with
    | text t => obtain ⟨h1, h2, h3, h4, h5⟩ := hf; exact ⟨h1, h2, h3, h4, h5⟩
    | box r bl => obtain ⟨h1, h2, h3, h4⟩ := hf; exact ⟨h1, h2, h3, h4⟩
    | redact r => obtain ⟨h1, h2, h3, h4⟩ := hf; exact ⟨h1, h2, h3, h4⟩

end Sys2Proof.Machine
end

section
/-! The statement on COMMIT and CANCEL COMMIT (R60, R61, R68). -/

namespace Sys2Proof.Machine

/-- A command that names a surface, from what its body answers. -/
theorem runOnSurface_answers {number : Byte} {f : CommandFrame} {k : Nat} {body : SurfaceId → State → Reply × State}
    {s t : State} {n : SurfaceId} {rest : List Byte} {c : ResultCode} {p : List Byte} (hs : s.Released)
    (hb : ∀ n, KeepsPort (body n)) (hp : f.payload = byteOf n.val :: rest) (hk : rest.length + 1 = k)
    (he : body n (s.receive (frameBytes number f)) = (⟨c, p⟩, t.receive (frameBytes number f))) :
    runCommand number f (f.payload.length == k) (onSurface f body) s = .next (replied s number f c p t) := by
  rw [runOnSurface number f k body s n rest hs hb hp hk, he]
  rfl

/-! ### COMMIT (R60, R61) -/

section
variable {n : SurfaceId} {u : State}

theorem commit_notLive (h : (u.surf n).state ≠ .live) : commit n u = (.bare .state, u) := if_neg h

theorem commit_again (h : (u.surf n).state = .live) (hp : (u.surf n).commitPending = true) :
    commit n u = (commitReply (u.surf n), u) := by
  simp only [commit, if_pos h, if_pos hp]

theorem commit_taken (h : (u.surf n).state = .live) (hp : (u.surf n).commitPending = false) :
    commit n u = (commitReply (u.surf n).withCommit, u.setSurf n (u.surf n).withCommit) := by
  simp only [commit, if_pos h, hp, Bool.false_eq_true, if_false]

end

/-- Taking a commit arms the deadline from the deadline field of the definition (R59, R60). -/
theorem Surface.withCommit_eq {r : Surface} {d : SurfaceDef} (hd : r.defn = some d) :
    r.withCommit =
      { r with
        commitPending := true
        deadlineRemaining := if d.deadline = 0 then none else some d.deadline } := by
  rw [Surface.withCommit, Surface.armedDeadline_eq hd]

theorem commit_replies (s : State) (f : CommandFrame) (n : SurfaceId) (hs : s.Released)
    (hp : f.payload = [byteOf n.val]) :
    ((s.surf n).state ≠ .live → exec (.commit f) s = .next (replied s 0x30 f .state [] s)) ∧
      ((s.surf n).state = .live → (s.surf n).commitPending = true →
        exec (.commit f) s = .next (replied s 0x30 f .ok (optBytes 2 (s.surf n).deadlineRemaining) s)) ∧
      ∀ d, (s.surf n).state = .live → (s.surf n).commitPending = false → (s.surf n).defn = some d →
        let armed := if d.deadline = 0 then none else some d.deadline
        exec (.commit f) s = .next (replied s 0x30 f .ok (optBytes 2 armed)
          (s.setSurf n { s.surf n with commitPending := true, deadlineRemaining := armed })) := by
  have hrun {c : ResultCode} {p : List Byte} {t : State}
      (he : commit n (s.receive (frameBytes 0x30 f)) = (⟨c, p⟩, t.receive (frameBytes 0x30 f))) :
      exec (.commit f) s = .next (replied s 0x30 f c p t) :=
    runOnSurface_answers hs keepsPort_commit hp rfl he
  refine ⟨fun hst => hrun (commit_notLive hst), fun hst hpend => hrun (commit_again hst hpend),
    fun d hst hpend hd => ?_⟩
  have htaken := hrun (t := s.setSurf n (s.surf n).withCommit) (commit_taken hst hpend)
  rwa [State.surf_receive, Surface.withCommit_eq hd] at htaken

/-! ### CANCEL COMMIT (R68) -/

section
variable {n : SurfaceId} {u : State}

theorem cancelCommit_notLive (h : (u.surf n).state ≠ .live) : cancelCommit n u = (.bare .state, u) := if_neg h

theorem cancelCommit_done (h : (u.surf n).state = .live) (hp : (u.surf n).commitPending = true) :
    cancelCommit n u =
      (.done, u.setSurf n { u.surf n with commitPending := false, deadlineRemaining := none }) := by
  simp only [cancelCommit, if_pos h, if_pos hp]

theorem cancelCommit_tooLate (h : (u.surf n).state = .live) (hp : (u.surf n).commitPending = false) :
    cancelCommit n u = (⟨.tooLate, optWord (u.surf n).lastCommitFrame⟩, u) := by
  simp only [cancelCommit, if_pos h, hp, Bool.false_eq_true, if_false]

end

theorem cancelCommit_replies (s : State) (f : CommandFrame) (n : SurfaceId) (hs : s.Released)
    (hp : f.payload = [byteOf n.val]) :
    ((s.surf n).state ≠ .live → exec (.cancelCommit f) s = .next (replied s 0x31 f .state [] s)) ∧
      ((s.surf n).state = .live → (s.surf n).commitPending = true →
        exec (.cancelCommit f) s = .next (replied s 0x31 f .ok []
          (s.setSurf n { s.surf n with commitPending := false, deadlineRemaining := none }))) ∧
      ((s.surf n).state = .live → (s.surf n).commitPending = false →
        exec (.cancelCommit f) s = .next
          (replied s 0x31 f .tooLate (optBytes 4 ((s.surf n).lastCommitFrame.map BitVec.toNat)) s)) := by
  have hrun {c : ResultCode} {p : List Byte} {t : State}
      (he : cancelCommit n (s.receive (frameBytes 0x31 f)) = (⟨c, p⟩, t.receive (frameBytes 0x31 f))) :
      exec (.cancelCommit f) s = .next (replied s 0x31 f c p t) :=
    runOnSurface_answers hs keepsPort_cancelCommit hp rfl he
  exact ⟨fun hst => hrun (cancelCommit_notLive hst), fun hst hpend => hrun (cancelCommit_done hst hpend),
    fun hst hpend => hrun (cancelCommit_tooLate hst hpend)⟩

/-- Settles O25: each command by the state of the surface, and on a LIVE one by whether a commit is pending. -/
theorem commitAndCancel : Obligations.CommitAndCancel := ⟨commit_replies, cancelCommit_replies⟩

end Sys2Proof.Machine
end

section
/-! The glyph store and the string store (R79 to R95): the parts of a payload that their commands read, and what each
command answers, by its checks in order. -/

namespace Sys2Proof.Machine

/-! ### The parts of a payload that the store commands read (R83 to R85, R92, R179) -/

theorem arg_zero {f : CommandFrame} {a : Byte} {rest : List Byte} (hp : f.payload = a :: rest) : arg f 0 = a := by
  rw [arg, hp]; rfl

theorem pageOf_byte (p : Page) : pageOf p.byte = some p := by cases p <;> rfl

theorem cellOf_none {b : Byte} (h : 127 < b.toNat) : cellOf b = none := dif_neg (by omega)

theorem cellOf_some {b : Byte} {c : Fin 128} (h : b.toNat = c.val) : cellOf b = some c := by
  rw [cellOf, dif_pos (by omega)]
  exact congrArg some (Fin.ext h)

theorem slotOf_some {b : Byte} {k : SlotId} (h : b.toNat = k.val) : slotOf b = some k := by
  rw [slotOf, dif_pos (by omega)]
  exact congrArg some (Fin.ext h)

theorem glyphSelectorOf_header : glyphSelectorOf 0xFF = some .header := rfl

theorem glyphSelectorOf_cell {b : Byte} {c : Fin 128} (h : b.toNat = c.val) : glyphSelectorOf b = some (.cell c) := by
  have hne : b ≠ 0xFF := by
    rintro rfl
    exact absurd (h ▸ c.isLt) (by decide)
  rw [glyphSelectorOf, if_neg hne, cellOf_some h, Option.map_some]

theorem glyphSelectorOf_none {b : Byte} (h : 127 < b.toNat) (hne : b ≠ 0xFF) : glyphSelectorOf b = none := by
  rw [glyphSelectorOf, if_neg hne, cellOf_none h, Option.map_none]

/-- The values of a page header keep every cell that they can reach within the page (R80). -/
abbrev PageHeader.InRange (h : PageHeader) : Prop :=
  h.digitBase ≤ 118 ∧ h.amGlyph ≤ 127 ∧ h.pmGlyph ≤ 127 ∧ h.weekdayBase ≤ 121

theorem headerOf_eq (db am pm wd : Byte) :
    headerOf [db, am, pm, wd] =
      if PageHeader.InRange ⟨db.toNat, am.toNat, pm.toNat, wd.toNat⟩ then
        some ⟨db.toNat, am.toNat, pm.toNat, wd.toNat⟩ else none := by
  simp [headerOf, numAt, beNat]

theorem headerOf_inRange {bytes : List Byte} {h : PageHeader} (hh : headerOf bytes = some h) : h.InRange := by
  simp only [headerOf] at hh
  split at hh
  · cases hh; assumption
  · cases hh

/-! ### A page in use (R82) -/

theorem Surface.usesPage_iff (r : Surface) (p : Page) :
    r.usesPage p = true ↔
      ((r.state = .live ∨ r.state = .retiring) ∧ r.activePage = some p) ∨
        (r.commitPending = true ∧ r.stagedPage = some p) := by
  simp [Surface.usesPage, Surface.drawing_iff]

theorem State.pageInUse_iff (s : State) (p : Page) : s.pageInUse p = true ↔ s.PageHeld p := by
  simp only [State.pageInUse, List.any_eq_true, mem_surfaceIds, true_and, Surface.usesPage_iff, State.PageHeld]

/-! ### What each command answers, by its checks in order -/

section
variable {f : CommandFrame} {u : State}

/-- WRITE GLYPH on a page or a code out of range (R83). -/
theorem writeGlyph_badArg (h : pageOf (arg f 0) = none ∨ cellOf (arg f 1) = none) :
    writeGlyph f u = (.bare .badArg, u) := by
  rcases h with h | h
  · simp only [writeGlyph, h]
  · cases hp : pageOf (arg f 0) <;> simp only [writeGlyph, hp, h]

/-- WRITE PAGE HEADER on a page or a value out of range (R84). -/
theorem writePageHeader_badArg (h : pageOf (arg f 0) = none ∨ headerOf (argBytes f 1 4) = none) :
    writePageHeader f u = (.bare .badArg, u) := by
  rcases h with h | h
  · simp only [writePageHeader, h]
  · cases hp : pageOf (arg f 0) <;> simp only [writePageHeader, hp, h]

/-- READ GLYPH on a page or a selector out of range (R85). -/
theorem readGlyph_badArg (h : pageOf (arg f 0) = none ∨ glyphSelectorOf (arg f 1) = none) :
    readGlyph f u = (.bare .badArg, u) := by
  rcases h with h | h
  · simp only [readGlyph, h]
  · cases hp : pageOf (arg f 0) <;> simp only [readGlyph, hp, h]

section
variable {p : Page} (hp : pageOf (arg f 0) = some p)
include hp

section
variable {c : Fin 128} (hc : cellOf (arg f 1) = some c)
include hc

theorem writeGlyph_inUse (h : u.PageHeld p) : writeGlyph f u = (.bare .inUse, u) := by
  simp only [writeGlyph, hp, hc, if_pos ((u.pageInUse_iff p).mpr h)]

theorem writeGlyph_done (h : ¬u.PageHeld p) :
    writeGlyph f u =
      (.done, u.setPage p ⟨(u.page p).cells.set c (cellOfBytes (argBytes f 2 60)), (u.page p).header⟩) := by
  simp only [writeGlyph, hp, hc, if_neg (mt (u.pageInUse_iff p).mp h)]

end

section
variable {h : PageHeader} (hh : headerOf (argBytes f 1 4) = some h)
include hh

theorem writePageHeader_inUse (hu : u.PageHeld p) : writePageHeader f u = (.bare .inUse, u) := by
  simp only [writePageHeader, hp, hh, if_pos ((u.pageInUse_iff p).mpr hu)]

theorem writePageHeader_done (hu : ¬u.PageHeld p) :
    writePageHeader f u = (.done, u.setPage p ⟨(u.page p).cells, h⟩) := by
  simp only [writePageHeader, hp, hh, if_neg (mt (u.pageInUse_iff p).mp hu)]

end

theorem readGlyph_cell {c : Fin 128} (hc : glyphSelectorOf (arg f 1) = some (.cell c)) :
    readGlyph f u = (⟨.ok, cellBytes (u.page p).cells[c]⟩, u) := by
  simp only [readGlyph, hp, hc]

theorem readGlyph_header (hc : glyphSelectorOf (arg f 1) = some .header) :
    readGlyph f u = (⟨.ok, headerBytes (u.page p).header (u.pageInUse p)⟩, u) := by
  simp only [readGlyph, hp, hc]

end

/-- WRITE STRING on a slot or a length out of range (R92). -/
theorem writeString_badArg (h : slotOf (arg f 0) = none ∨ 32 < (arg f 1).toNat) :
    writeString f u = (.bare .badArg, u) := by
  cases hk : slotOf (arg f 0) with
  | none => simp only [writeString, hk]
  | some k => simp only [writeString, hk, Config.slotCapacity, if_pos (h.resolve_left (by simp [hk]))]

theorem readString_badArg (h : slotOf (arg f 0) = none) : readString f u = (.bare .badArg, u) := by
  simp only [readString, h]

section
variable {k : SlotId} (hk : slotOf (arg f 0) = some k)
include hk

theorem writeString_inUse (hl : (arg f 1).toNat ≤ 32) (hr : (u.slot k).refCount ≠ 0) :
    writeString f u = (.bare .inUse, u) := by
  simp only [writeString, hk, Config.slotCapacity, if_neg (Nat.not_lt.mpr hl), if_pos hr]

theorem writeString_done (hl : (arg f 1).toNat ≤ 32) (hr : (u.slot k).refCount = 0) :
    writeString f u = (.done, u.setSlot k ⟨argBytes f 2 (arg f 1).toNat, 0⟩) := by
  simp only [writeString, hk, Config.slotCapacity, if_neg (Nat.not_lt.mpr hl), hr, ne_eq, not_true, if_false]

theorem readString_done : readString f u = (⟨.ok, slotBytes (u.slot k)⟩, u) := by
  simp only [readString, hk]

end

end

end Sys2Proof.Machine
end

section
/-! What the stores hold is changed by no event but a hard reset and the three store writes, and these spare a
glyph page in use and a slot whose reference count is not 0 (R82, R90). -/

namespace Sys2Proof.Machine

/-! ### What the stores hold, and the updates that leave it alone -/

/-- What the two stores hold: the glyph pages and the codes of the string slots. The reference counts are the item
pool's to move (R90) and stand apart. -/
def State.stores (s : State) : (Page → GlyphPage) × (SlotId → List Byte) := (s.page, fun k => (s.slot k).codes)

theorem State.stores_eq_iff {s t : State} :
    t.stores = s.stores ↔ (∀ p, t.page p = s.page p) ∧ ∀ k, (t.slot k).codes = (s.slot k).codes := by
  simp only [State.stores, Prod.mk.injEq, funext_iff]

/-- The counts have moved and nothing but the table, the pool and the slots has changed. -/
theorem State.stores_of_moved {s t : State} {freed taken : List Item} (ho : s.OnlyTable t)
    (hc : s.CountsMoved t freed taken) : t.stores = s.stores := by
  refine State.stores_eq_iff.mpr ⟨fun p => ?_, fun k => by rw [hc.2 k]⟩
  rw [ho]
  rfl

theorem State.Restages.stores {s t : State} {n : SurfaceId} {staged freed taken : List Item} {page : Option Page}
    (h : s.Restages t n staged page freed taken) : t.stores = s.stores := State.stores_of_moved h.onlyTable h.counts

section
variable (s : State)

@[simp] theorem State.stores_setSurf (n : SurfaceId) (r : Surface) : (s.setSurf n r).stores = s.stores := rfl
@[simp] theorem State.stores_post (x : Notice) : (s.post x).stores = s.stores := rfl
@[simp] theorem State.stores_freeItems (items : List Item) : (s.freeItems items).stores = s.stores :=
  State.stores_eq_iff.mpr ⟨fun _ => rfl, fun k => by rw [State.slot_freeItems]⟩

/-! ### Commits, retirements and ticks -/

@[simp] theorem State.stores_applyCommit (n : SurfaceId) : (s.applyCommit n).stores = s.stores := by
  simp [State.applyCommit]

@[simp] theorem State.stores_completeRetirement (n : SurfaceId) (forced : Bool) :
    (s.completeRetirement n forced).stores = s.stores := by
  simp [State.completeRetirement]

@[simp] theorem State.stores_forceCommit (n : SurfaceId) : (s.forceCommit n).stores = s.stores := by
  rcases s.forceCommit_cases n with ⟨-, -, -, e⟩ | ⟨-, e⟩ <;> simp [e]

@[simp] theorem State.stores_forceRetirement (n : SurfaceId) : (s.forceRetirement n).stores = s.stores := by
  rcases s.forceRetirement_cases n with ⟨-, -, e⟩ | ⟨-, e⟩ <;> simp [e]

@[simp] theorem State.stores_countDown (n : SurfaceId) : (s.countDown n).stores = s.stores := by
  unfold State.countDown
  split <;> simp

@[simp] theorem State.stores_tickSurface (n : SurfaceId) : (s.tickSurface n).stores = s.stores := by
  simp [State.tickSurface]

@[simp] theorem State.stores_tickClock : s.tickClock.stores = s.stores := by
  rcases s.tickClock_cases with ⟨-, e⟩ | ⟨-, -, e⟩ | ⟨-, -, e⟩ <;> rw [e] <;> rfl

theorem State.stores_tickSurfaces (ns : List SurfaceId) : (ns.foldl State.tickSurface s).stores = s.stores := by
  induction ns generalizing s with
  | nil => rfl
  | cons n ns ih => rw [List.foldl_cons, ih, State.stores_tickSurface]

/-! ### The taking of a write (R9, R24, R25) -/

@[simp] theorem State.stores_commitAtStart (n : SurfaceId) : (s.commitAtStart n).stores = s.stores := by
  unfold State.commitAtStart
  split <;> simp

@[simp] theorem State.stores_noticeAtStart (n : SurfaceId) (d : SurfaceDef) (k : BufferId) :
    (s.noticeAtStart n d k).stores = s.stores := by
  unfold State.noticeAtStart
  split <;> simp

theorem State.stores_startFrame (n : SurfaceId) (d : SurfaceDef) (k : BufferId) (hi : Nat) :
    (s.startFrame n d k hi).stores = s.stores := by
  have hbegun : (s.beginFrame n k hi).stores = s.stores := s.stores_setSurf n _
  unfold State.startFrame
  dsimp only
  split <;> simpa using hbegun

theorem State.stores_handlePortion (p : Portion) : (s.handlePortion p).1.stores = s.stores := by
  cases ht : s.trackedOn p with
  | none => rw [State.handlePortion_untracked ht]
  | some out =>
    obtain ⟨⟨n, k⟩, d⟩ := out
    rw [State.handlePortion_tracked (State.tracks_of_trackedOn ht)]
    rcases s.trackPortion_cases n d k (p.lowRow d k) (p.highRow d k) with ⟨-, e⟩ | ⟨-, e⟩ <;> simp only [e]
    · exact s.stores_startFrame n d k _
    · exact s.stores_setSurf n _

theorem State.stores_classifyWrite (w : WriteRequest) : (s.classifyWrite w).1.stores = s.stores :=
  State.handlePortions_keeps (P := fun u => u.stores = s.stores)
    (fun u p hu => (u.stores_handlePortion p).trans hu) s _ rfl

/-! ### The pass-through unit -/

@[simp] theorem State.stores_oweAnswer (t : Tag) (a : AnswerStatus) : (s.oweAnswer t a).stores = s.stores := by
  rcases s.oweAnswer_cases t a with ⟨-, e⟩ | ⟨-, e⟩ <;> rw [e] <;> rfl

theorem State.stores_answerOne (t : Tag) : (s.answerOne t).stores = s.stores := by
  rcases s.answerOne_cases t with ⟨-, e⟩ | ⟨_, _, _, -, -, e⟩ <;> rw [e]
  rfl

theorem State.stores_answerReady (t : Tag) : (s.answerReady t).stores = s.stores :=
  repeatStep_keeps (P := fun u => u.stores = s.stores) (fun u hu => (u.stores_answerOne t).trans hu) _ s rfl

theorem State.stores_releaseOne : s.releaseOne.stores = s.stores := by
  rcases s.releaseOne_cases with ⟨-, e⟩ | ⟨_, _, -, -, e⟩ <;> rw [e]
  rfl

theorem State.stores_issueOne : s.issueOne.stores = s.stores := by
  rcases s.issueOne_cases with ⟨-, e⟩ | ⟨_, _, _, -, -, -, -, -, e⟩ <;> rw [e]
  rfl

theorem State.stores_advance : s.advance.stores = s.stores :=
  State.advance_keeps (P := fun u => u.stores = s.stores) (fun u hu => u.stores_releaseOne.trans hu)
    (fun u hu => u.stores_issueOne.trans hu) s rfl

theorem State.stores_takeMalformed (a : Address) (len : Nat) (t : Tag) :
    (s.takeMalformed a len t).stores = s.stores := by
  simp [State.takeMalformed]

theorem State.stores_enqueueWrite (w : WriteRequest) : (s.enqueueWrite w).stores = s.stores :=
  (State.stores_oweAnswer _ w.tag .posted).trans (s.stores_classifyWrite w)

theorem State.stores_acceptRead (r : ReadRequest) : (s.acceptRead r).stores = s.stores := by
  unfold State.acceptRead
  split <;> rfl

theorem State.stores_takeRequest (q : UpstreamRequest) : (s.takeRequest q).stores = s.stores := by
  cases q with
  | write w =>
    rw [State.takeRequest]
    split
    · exact s.stores_takeMalformed ..
    · split
      · exact s.stores_enqueueWrite w
      · exact s.stores_oweAnswer ..
  | read r =>
    rw [State.takeRequest]
    split
    · exact s.stores_takeMalformed ..
    · exact s.stores_acceptRead r

@[simp] theorem State.stores_settle : s.settle.stores = s.stores :=
  State.takeWaiting_keeps (P := fun u => u.stores = s.stores) (fun u hu => u.stores_advance.trans hu)
    (fun u q hu _ => (u.stores_takeRequest q).trans hu) (fun _ _ hu => hu) _ _ s.stores_advance

theorem State.stores_arrive (q : UpstreamRequest) : (s.arrive q).stores = s.stores := by
  unfold State.arrive
  dsimp only
  split
  · rfl
  · exact State.stores_settle _

@[simp] theorem State.stores_completeHead (st : CompletionStatus) : (s.completeHead st).stores = s.stores := by
  rcases s.completeHead_cases st with ⟨-, e⟩ | ⟨_, _, -, -, e⟩ <;> rw [e]
  rfl

@[simp] theorem State.stores_meetDrain : s.meetDrain.stores = s.stores := by
  rcases s.meetDrain_cases with ⟨-, e⟩ | ⟨_, -, -, e⟩ <;> rw [e]
  rfl

theorem State.stores_respond (t : Tag) (ret : ReadReturn) : (s.respond t ret).stores = s.stores := by
  unfold State.respond
  split <;> rfl

end

/-! ### The commands that write neither store -/

/-- A command body leaves what the stores hold. -/
def KeepsStores (body : State → Reply × State) : Prop := ∀ u : State, (body u).2.stores = u.stores

theorem keepsStores_onSurface {f : CommandFrame} {body : SurfaceId → State → Reply × State}
    (h : ∀ n, KeepsStores (body n)) : KeepsStores (onSurface f body) := by
  intro u
  unfold onSurface
  split
  · rfl
  · exact h _ u

theorem keepsStores_onStaging {f : CommandFrame} {body : SurfaceId → State → Reply × State}
    (h : ∀ n, KeepsStores (body n)) : KeepsStores (onStaging f body) := by
  rw [onStaging_eq]
  refine keepsStores_onSurface fun n u => ?_
  unfold guardStaging
  split
  · rfl
  · exact h n u

theorem keepsStores_softReset : KeepsStores fun s => (Reply.done, s.softReset) := by
  refine fun u => State.stores_eq_iff.mpr ⟨fun _ => rfl, fun k => ?_⟩
  simp [State.softReset, State.slot]

theorem keepsStores_defineSurface (f : CommandFrame) (n : SurfaceId) : KeepsStores (defineSurface f n) := by
  intro u
  unfold defineSurface
  split
  · rfl
  · rfl
  · split <;> rfl
  · split <;> rfl

theorem keepsStores_activateSurface (n : SurfaceId) : KeepsStores (activateSurface n) := by
  intro u
  unfold activateSurface
  split
  · split <;> rfl
  · rfl

theorem keepsStores_retireSurface (n : SurfaceId) : KeepsStores (retireSurface n) := by
  intro u
  unfold retireSurface
  split <;> rfl

theorem keepsStores_releaseSurface (n : SurfaceId) : KeepsStores (releaseSurface n) := by
  intro u
  unfold releaseSurface
  split <;> simp

theorem keepsStores_readSurface (n : SurfaceId) : KeepsStores (readSurface n) := fun _ => rfl

theorem keepsStores_addItem (f : CommandFrame) (n : SurfaceId) : KeepsStores (addItem f n) := by
  intro u
  rcases addItem_cases f n u with ⟨c, e⟩ | ⟨it, -, -, e⟩ <;> rw [e]
  exact (u.restages_itemAdded n it).stores

theorem keepsStores_setItem (f : CommandFrame) (n : SurfaceId) : KeepsStores (setItem f n) := by
  intro u
  rcases setItem_cases f n u with ⟨c, e⟩ | ⟨old, it, -, -, e⟩ <;> rw [e]
  exact (u.restages_itemSet n _ old it).stores

theorem keepsStores_removeItem (f : CommandFrame) (n : SurfaceId) : KeepsStores (removeItem f n) := by
  intro u
  rcases removeItem_cases f n u with ⟨c, e⟩ | ⟨old, -, e⟩ <;> rw [e]
  exact (u.restages_itemRemoved n _ old).stores

theorem keepsStores_moveItem (f : CommandFrame) (n : SurfaceId) : KeepsStores (moveItem f n) := by
  intro u
  rcases moveItem_cases f n u with ⟨c, e⟩ | ⟨it, -, -, e⟩ <;> rw [e]
  exact u.stores_setSurf n _

theorem keepsStores_clearStaged (n : SurfaceId) : KeepsStores (clearStaged n) :=
  fun u => (u.restages_stagedCleared n).stores

theorem keepsStores_cloneActive (n : SurfaceId) : KeepsStores (cloneActive n) := by
  intro u
  rcases cloneActive_cases n u with ⟨c, p, -, e⟩ | ⟨-, e⟩ <;> rw [e]
  exact (u.restages_activeCloned n).stores

theorem keepsStores_selectPage (f : CommandFrame) (n : SurfaceId) : KeepsStores (selectPage f n) := by
  intro u
  rcases selectPage_cases f n u with ⟨c, e⟩ | ⟨p, e⟩ <;> rw [e]
  exact u.stores_setSurf n _

theorem keepsStores_readItem (f : CommandFrame) (n : SurfaceId) : KeepsStores (readItem f n) := by
  intro u
  unfold readItem
  split
  · rfl
  · split
    · rfl
    · split <;> rfl

theorem keepsStores_commit (n : SurfaceId) : KeepsStores (commit n) := by
  intro u
  unfold commit
  dsimp only
  split
  · split <;> rfl
  · rfl

theorem keepsStores_cancelCommit (n : SurfaceId) : KeepsStores (cancelCommit n) := by
  intro u
  unfold cancelCommit
  dsimp only
  split
  · split <;> rfl
  · rfl

theorem keepsStores_readGlyph (f : CommandFrame) : KeepsStores (readGlyph f) := by
  intro u
  unfold readGlyph
  split <;> rfl

theorem keepsStores_readString (f : CommandFrame) : KeepsStores (readString f) := by
  intro u
  unfold readString
  split <;> rfl

theorem keepsStores_setClock (f : CommandFrame) : KeepsStores (setClock f) := by
  intro u
  unfold setClock
  split <;> rfl

theorem keepsStores_holdClock : KeepsStores holdClock := fun _ => rfl

theorem keepsStores_adjustClock (f : CommandFrame) : KeepsStores (adjustClock f) := by
  intro u
  unfold adjustClock
  split
  · rfl
  · split <;> rfl

theorem keepsStores_readClock : KeepsStores readClock := fun _ => rfl

theorem keepsStores_setBypass (f : CommandFrame) : KeepsStores (setBypass f) := by
  intro u
  unfold setBypass
  split
  · rfl
  · split <;> rfl

theorem keepsStores_takeDrain (f : CommandFrame) : KeepsStores (takeDrain f) := by
  intro u
  unfold takeDrain
  split
  · rfl
  · split <;> rfl

theorem keepsStores_readStatus : KeepsStores readStatus := fun _ => rfl

theorem keepsStores_nextNotice : KeepsStores nextNotice := by
  intro u
  unfold nextNotice
  split <;> rfl

/-! ### What a step may do to the stores -/

/-- From `s` to `t` the stores stay in range, and the pages in use and the codes of the referenced slots stay as they
are (R80, R82, R88, R90). -/
structure State.GuardsStores (s t : State) : Prop where
  inRange    : s.StoresWf → t.StoresWf
  pagesHeld  : ∀ p : Page, s.PageHeld p → t.page p = s.page p
  codesNamed : ∀ k : SlotId, (s.slot k).refCount ≠ 0 → (t.slot k).codes = (s.slot k).codes

theorem State.storesWf_of_stores {s t : State} (h : t.stores = s.stores) (hs : s.StoresWf) : t.StoresWf := by
  obtain ⟨hpage, hcodes⟩ := State.stores_eq_iff.mp h
  exact ⟨fun p => by rw [hpage p]; exact hs.1 p, fun k => by rw [hcodes k]; exact hs.2 k⟩

theorem State.guardsStores_of_stores {s t : State} (h : t.stores = s.stores) : s.GuardsStores t where
  inRange := State.storesWf_of_stores h
  pagesHeld p _ := (State.stores_eq_iff.mp h).1 p
  codesNamed k _ := (State.stores_eq_iff.mp h).2 k

theorem State.GuardsStores.refl (s : State) : s.GuardsStores s := State.guardsStores_of_stores rfl

/-- A page that is not in use takes new contents with a header in range. -/
theorem State.guardsStores_setPage {s : State} {p : Page} {g : GlyphPage} (hu : ¬s.PageHeld p)
    (hg : s.StoresWf → g.header.InRange) : s.GuardsStores (s.setPage p g) where
  inRange hs := by
    refine ⟨fun q => ?_, fun k => ?_⟩
    · rw [State.page_setPage]
      split
      · exact hg hs
      · exact hs.1 q
    · rw [State.slot_congr (s.setPage_slots p g) k]
      exact hs.2 k
  pagesHeld q hq := by
    rw [State.page_setPage, if_neg]
    rintro rfl
    exact hu hq
  codesNamed k _ := by rw [State.slot_congr (s.setPage_slots p g) k]

/-- A slot that no item names takes at most 32 codes. -/
theorem State.guardsStores_setSlot {s : State} {k : SlotId} {v : StringSlot} (hr : (s.slot k).refCount = 0)
    (hv : v.codes.length ≤ 32) : s.GuardsStores (s.setSlot k v) where
  inRange hs := by
    refine ⟨hs.1, fun j => ?_⟩
    rw [State.slot_setSlot]
    split
    · exact hv
    · exact hs.2 j
  pagesHeld _ _ := rfl
  codesNamed j hj := by
    rw [State.slot_setSlot, if_neg]
    rintro rfl
    exact hj hr

theorem writeGlyph_guardsStores (f : CommandFrame) (u : State) : u.GuardsStores (writeGlyph f u).2 := by
  cases hp : pageOf (arg f 0) with
  | none => rw [writeGlyph_badArg (.inl hp)]; exact .refl u
  | some p =>
    cases hc : cellOf (arg f 1) with
    | none => rw [writeGlyph_badArg (.inr hc)]; exact .refl u
    | some c =>
      by_cases hu : u.PageHeld p
      · rw [writeGlyph_inUse hp hc hu]; exact .refl u
      · rw [writeGlyph_done hp hc hu]
        exact State.guardsStores_setPage hu fun hs => hs.1 p

theorem writePageHeader_guardsStores (f : CommandFrame) (u : State) : u.GuardsStores (writePageHeader f u).2 := by
  cases hp : pageOf (arg f 0) with
  | none => rw [writePageHeader_badArg (.inl hp)]; exact .refl u
  | some p =>
    cases hh : headerOf (argBytes f 1 4) with
    | none => rw [writePageHeader_badArg (.inr hh)]; exact .refl u
    | some h =>
      by_cases hu : u.PageHeld p
      · rw [writePageHeader_inUse hp hh hu]; exact .refl u
      · rw [writePageHeader_done hp hh hu]
        exact State.guardsStores_setPage hu fun _ => headerOf_inRange hh

theorem writeString_guardsStores (f : CommandFrame) (u : State) : u.GuardsStores (writeString f u).2 := by
  cases hk : slotOf (arg f 0) with
  | none => rw [writeString_badArg (.inl hk)]; exact .refl u
  | some k =>
    by_cases hl : (arg f 1).toNat ≤ 32
    · by_cases hr : (u.slot k).refCount = 0
      · rw [writeString_done hk hl hr]
        exact State.guardsStores_setSlot hr ((List.length_take_le _ _).trans hl)
      · rw [writeString_inUse hk hl hr]; exact .refl u
    · rw [writeString_badArg (.inr (by omega))]; exact .refl u

/-! ### Every row -/

/-- What a transaction does to the stores, its body does: taking the frame in and replacing the record touch neither
them nor what protects them. -/
theorem State.guardsStores_runCommand {s t : State} {number : Byte} {f : CommandFrame} {ok : Bool}
    {body : State → Reply × State} (hb : ∀ u : State, u.GuardsStores (body u).2)
    (ht : runCommand number f ok body s = .next t) : s.GuardsStores t := by
  rcases runCommand_cases ht with rfl | ⟨r, rfl⟩ | ⟨r, rfl⟩
  · exact .refl _
  · exact State.guardsStores_of_stores rfl
  · obtain ⟨hrange, hpages, hcodes⟩ := hb (s.receive (frameBytes number f))
    exact ⟨hrange, hpages, hcodes⟩

theorem KeepsStores.guardsStores {s t : State} {number : Byte} {f : CommandFrame} {ok : Bool}
    {body : State → Reply × State} (hb : KeepsStores body) (ht : runCommand number f ok body s = .next t) :
    s.GuardsStores t :=
  State.guardsStores_runCommand (fun u => State.guardsStores_of_stores (hb u)) ht

/-- An event that is not taken while RESETN is asserted and leaves what the stores hold. -/
theorem State.guardsStores_unlessReset {s t u : State} (hu : u.stores = s.stores)
    (ht : (if s.resetAsserted = true then .next s else .next u : Host.Outcome State Fault Refusal) = .next t) :
    s.GuardsStores t := by
  split at ht <;> cases ht
  · exact .refl s
  · exact State.guardsStores_of_stores hu

theorem State.guardsStores_execNop {s t : State} {f : CommandFrame} (ht : execNop f s = .next t) :
    s.GuardsStores t := by
  unfold execNop at ht
  dsimp only at ht
  split at ht
  · cases ht; exact .refl s
  · split at ht <;> cases ht <;> exact State.guardsStores_of_stores rfl

theorem State.guardsStores_execBadFrame {s t : State} {raw : RawTransaction} (ht : execBadFrame raw s = .next t) :
    s.GuardsStores t := by
  unfold execBadFrame at ht
  split at ht
  · cases ht; exact .refl s
  · split at ht <;> cases ht <;> exact State.guardsStores_of_stores rfl

theorem State.guardsStores_execBadCommand {s t : State} {number : Byte} {f : CommandFrame}
    (ht : execBadCommand number f s = .next t) : s.GuardsStores t :=
  State.guardsStores_unlessReset (u := (s.receive (frameBytes number f)).conclude f.tail _) rfl ht

theorem State.guardsStores_execResetnRelease {s t : State} {csnLow : Bool}
    (ht : execResetnRelease csnLow s = .next t) : s.GuardsStores t := by
  unfold execResetnRelease at ht
  split at ht <;> cases ht
  · exact State.guardsStores_of_stores (State.stores_settle _)
  · exact .refl s

/-- Every row but a hard reset spares the pages in use and the codes of the referenced slots. -/
theorem State.guardsStores_exec {s t : State} {c : Instr} (hc : ∀ received, c ≠ .hardReset received)
    (ht : exec c s = .next t) : s.GuardsStores t := by
  cases c with
  | nop f => exact State.guardsStores_execNop ht
  | softReset f => exact keepsStores_softReset.guardsStores ht
  | defineSurface f => exact (keepsStores_onSurface (keepsStores_defineSurface f)).guardsStores ht
  | activateSurface f => exact (keepsStores_onSurface keepsStores_activateSurface).guardsStores ht
  | retireSurface f => exact (keepsStores_onSurface keepsStores_retireSurface).guardsStores ht
  | releaseSurface f => exact (keepsStores_onSurface keepsStores_releaseSurface).guardsStores ht
  | readSurface f => exact (keepsStores_onSurface keepsStores_readSurface).guardsStores ht
  | addItem f => exact (keepsStores_onStaging (keepsStores_addItem f)).guardsStores ht
  | setItem f => exact (keepsStores_onStaging (keepsStores_setItem f)).guardsStores ht
  | removeItem f => exact (keepsStores_onStaging (keepsStores_removeItem f)).guardsStores ht
  | moveItem f => exact (keepsStores_onStaging (keepsStores_moveItem f)).guardsStores ht
  | clearStaged f => exact (keepsStores_onStaging keepsStores_clearStaged).guardsStores ht
  | cloneActive f => exact (keepsStores_onStaging keepsStores_cloneActive).guardsStores ht
  | selectPage f => exact (keepsStores_onStaging (keepsStores_selectPage f)).guardsStores ht
  | readItem f => exact (keepsStores_onSurface (keepsStores_readItem f)).guardsStores ht
  | commit f => exact (keepsStores_onSurface keepsStores_commit).guardsStores ht
  | cancelCommit f => exact (keepsStores_onSurface keepsStores_cancelCommit).guardsStores ht
  | writeGlyph f => exact State.guardsStores_runCommand (writeGlyph_guardsStores f) ht
  | writePageHeader f => exact State.guardsStores_runCommand (writePageHeader_guardsStores f) ht
  | readGlyph f => exact (keepsStores_readGlyph f).guardsStores ht
  | writeString f => exact State.guardsStores_runCommand (writeString_guardsStores f) ht
  | readString f => exact (keepsStores_readString f).guardsStores ht
  | setClock f => exact (keepsStores_setClock f).guardsStores ht
  | holdClock f => exact keepsStores_holdClock.guardsStores ht
  | adjustClock f => exact (keepsStores_adjustClock f).guardsStores ht
  | readClock f => exact keepsStores_readClock.guardsStores ht
  | setBypass f => exact (keepsStores_setBypass f).guardsStores ht
  | drain f => exact (keepsStores_takeDrain f).guardsStores ht
  | readStatus f => exact keepsStores_readStatus.guardsStores ht
  | nextNotice f => exact keepsStores_nextNotice.guardsStores ht
  | badFrame raw => exact State.guardsStores_execBadFrame ht
  | badCommand number f => exact State.guardsStores_execBadCommand ht
  | hardReset received => exact absurd rfl (hc received)
  | resetnRelease csnLow => exact State.guardsStores_execResetnRelease ht
  | tick => exact State.guardsStores_unlessReset ((State.stores_tickSurfaces _ _).trans s.stores_tickClock) ht
  | forcedCommit n => exact State.guardsStores_unlessReset (s.stores_forceCommit n) ht
  | forcedRetirement n => exact State.guardsStores_unlessReset (s.stores_forceRetirement n) ht
  | upstreamWrite w => cases ht; exact State.guardsStores_of_stores (s.stores_arrive _)
  | upstreamRead r => cases ht; exact State.guardsStores_of_stores (s.stores_arrive _)
  | writeIssue => exact State.guardsStores_unlessReset s.stores_issueOne ht
  | writeCompletion st => exact State.guardsStores_unlessReset (by simp) ht
  | heldReadRelease => exact State.guardsStores_unlessReset s.stores_releaseOne ht
  | readResponse tag ret =>
    have hanswered := (State.stores_answerReady _ tag).trans (s.stores_respond tag ret)
    exact State.guardsStores_unlessReset ((State.stores_settle _).trans hanswered) ht
  | upstreamAnswer tag => exact State.guardsStores_unlessReset (s.stores_answerOne tag) ht
  | drainMet => exact State.guardsStores_unlessReset s.stores_meetDrain ht

/-- A hard reset leaves blank pages and empty slots, which are in range (R81, R91). -/
theorem storesWf_of_execHardReset {s t : State} {received : Option (List Byte)}
    (ht : execHardReset received s = .next t) : t.StoresWf := by
  obtain ⟨-, -, -, -, -, -, -, -, hreset, -⟩ := invariantsHoldAtReset
  cases ht
  exact State.storesWf_of_stores (s := State.reset) rfl hreset

/-- Settles O57: the three store writes check what protects a page or a slot, every other row but a hard reset leaves
what the stores hold, and a hard reset leaves them empty. -/
theorem storesProtected : Obligations.StoresProtected := by
  intro s t ht
  unfold step at ht
  split at ht
  case h_1 =>
    cases ht
    exact ⟨id, fun _ => ⟨fun _ _ => rfl, fun _ _ => rfl⟩⟩
  case h_2 c rest hpending =>
    by_cases hc : ∃ received, c = .hardReset received
    · obtain ⟨received, rfl⟩ := hc
      exact ⟨fun _ => storesWf_of_execHardReset ht, fun hno => absurd hpending (hno received rest)⟩
    · obtain ⟨hrange, hpages, hcodes⟩ := State.guardsStores_exec (fun received he => hc ⟨received, he⟩) ht
      exact ⟨hrange, fun _ => ⟨hpages, hcodes⟩⟩

end Sys2Proof.Machine
end

section
/-! The statements on the store commands (R83 to R85, R92, R93). -/

namespace Sys2Proof.Machine

/-- A command with a payload of its length, from what its body answers. -/
theorem runCommand_answers {number : Byte} {f : CommandFrame} {ok : Bool} {body : State → Reply × State} {s t : State}
    {c : ResultCode} {p : List Byte} (hs : s.Released) (hb : KeepsPort body) (hok : ok = true)
    (he : body (s.receive (frameBytes number f)) = (⟨c, p⟩, t.receive (frameBytes number f))) :
    runCommand number f ok body s = .next (replied s number f c p t) := by
  rw [hok, runCommand_ok number f body s hs hb, he]
  rfl

theorem State.setPage_receive (s : State) (bytes : List Byte) (p : Page) (g : GlyphPage) :
    (s.receive bytes).setPage p g = (s.setPage p g).receive bytes := by cases p <;> rfl

/-! ### WRITE GLYPH and WRITE PAGE HEADER (R83, R84) -/

theorem writeGlyph_replies (s : State) (f : CommandFrame) (page code : Byte) (data : List Byte) (hs : s.Released)
    (hp : f.payload = page :: code :: data) (hl : data.length = 60) :
    (1 < page.toNat ∨ 127 < code.toNat → exec (.writeGlyph f) s = .next (replied s 0x40 f .badArg [] s)) ∧
      ∀ (p : Page) (c : Fin 128), page = p.byte → code.toNat = c.val →
        (s.PageHeld p → exec (.writeGlyph f) s = .next (replied s 0x40 f .inUse [] s)) ∧
          (¬s.PageHeld p →
            exec (.writeGlyph f) s = .next (replied s 0x40 f .ok []
              (s.setPage p ⟨(s.page p).cells.set c (cellOfBytes data), (s.page p).header⟩))) := by
  have hrun {c : ResultCode} {p : List Byte} {t : State}
      (he : writeGlyph f (s.receive (frameBytes 0x40 f)) = (⟨c, p⟩, t.receive (frameBytes 0x40 f))) :
      exec (.writeGlyph f) s = .next (replied s 0x40 f c p t) :=
    runCommand_answers hs (keepsPort_writeGlyph f) (by simp [hp, hl]) he
  have hpage := arg_zero hp
  have hcode := arg_one hp
  refine ⟨fun hbad => hrun (writeGlyph_badArg ?_), fun p c hpb hcb => ?_⟩
  · rw [hpage, hcode]
    exact hbad.imp pageOf_none cellOf_none
  · have hp' : pageOf (arg f 0) = some p := by rw [hpage, hpb, pageOf_byte]
    have hc' : cellOf (arg f 1) = some c := by rw [hcode, cellOf_some hcb]
    refine ⟨fun hu => hrun (writeGlyph_inUse hp' hc' hu), fun hu => hrun ?_⟩
    rw [writeGlyph_done hp' hc' (show ¬(s.receive _).PageHeld p from hu), State.setPage_receive, State.page_receive,
      argBytes_tail_two hp hl]
    rfl

theorem writePageHeader_replies (s : State) (f : CommandFrame) (page db am pm wd : Byte) (hs : s.Released)
    (hp : f.payload = [page, db, am, pm, wd]) :
    (1 < page.toNat ∨ 118 < db.toNat ∨ 127 < am.toNat ∨ 127 < pm.toNat ∨ 121 < wd.toNat →
        exec (.writePageHeader f) s = .next (replied s 0x41 f .badArg [] s)) ∧
      ∀ p : Page, page = p.byte → db.toNat ≤ 118 → am.toNat ≤ 127 → pm.toNat ≤ 127 → wd.toNat ≤ 121 →
        (s.PageHeld p → exec (.writePageHeader f) s = .next (replied s 0x41 f .inUse [] s)) ∧
          (¬s.PageHeld p →
            exec (.writePageHeader f) s = .next (replied s 0x41 f .ok []
              (s.setPage p ⟨(s.page p).cells, ⟨db.toNat, am.toNat, pm.toNat, wd.toNat⟩⟩))) := by
  have hrun {c : ResultCode} {p : List Byte} {t : State}
      (he : writePageHeader f (s.receive (frameBytes 0x41 f)) = (⟨c, p⟩, t.receive (frameBytes 0x41 f))) :
      exec (.writePageHeader f) s = .next (replied s 0x41 f c p t) :=
    runCommand_answers hs (keepsPort_writePageHeader f) (by simp [hp]) he
  have hpage := arg_zero hp
  have hhead := (congrArg headerOf (argBytes_tail hp rfl)).trans (headerOf_eq db am pm wd)
  refine ⟨fun hbad => hrun (writePageHeader_badArg ?_), fun p hpb hdb ham hpm hwd => ?_⟩
  · rw [hpage]
    refine hbad.imp pageOf_none fun hout => hhead.trans (if_neg ?_)
    rintro ⟨hdb, ham, hpm, hwd⟩
    dsimp only at hdb ham hpm hwd
    omega
  · have hp' : pageOf (arg f 0) = some p := by rw [hpage, hpb, pageOf_byte]
    have hh := hhead.trans (if_pos ⟨hdb, ham, hpm, hwd⟩)
    refine ⟨fun hu => hrun (writePageHeader_inUse hp' hh hu), fun hu => hrun ?_⟩
    rw [writePageHeader_done hp' hh (show ¬(s.receive _).PageHeld p from hu), State.setPage_receive,
      State.page_receive]
    rfl

/-- Settles O27: each command by its checks in order, then by the page's use. -/
theorem pageWritesReplaceWhole : Obligations.PageWritesReplaceWhole := ⟨writeGlyph_replies, writePageHeader_replies⟩

/-! ### WRITE STRING and READ STRING (R92, R93) -/

theorem writeString_replies (s : State) (f : CommandFrame) (slot len : Byte) (codes : List Byte) (hs : s.Released)
    (hp : f.payload = slot :: len :: codes) (hl : codes.length = len.toNat) :
    (63 < slot.toNat ∨ 32 < len.toNat → exec (.writeString f) s = .next (replied s 0x43 f .badArg [] s)) ∧
      ∀ k : SlotId, slot.toNat = k.val → len.toNat ≤ 32 →
        ((s.slot k).refCount ≠ 0 → exec (.writeString f) s = .next (replied s 0x43 f .inUse [] s)) ∧
          ((s.slot k).refCount = 0 →
            exec (.writeString f) s = .next (replied s 0x43 f .ok [] (s.setSlot k ⟨codes, 0⟩))) := by
  have hslot := arg_zero hp
  have hlen := arg_one hp
  have hfits : stringLengthOk f = true := by
    simp only [stringLengthOk, hlen, hp, hl, List.length_cons, Bool.and_eq_true, decide_eq_true_eq, beq_iff_eq]
    omega
  have hrun {c : ResultCode} {p : List Byte} {t : State}
      (he : writeString f (s.receive (frameBytes 0x43 f)) = (⟨c, p⟩, t.receive (frameBytes 0x43 f))) :
      exec (.writeString f) s = .next (replied s 0x43 f c p t) :=
    runCommand_answers hs (keepsPort_writeString f) hfits he
  have hcodes : argBytes f 2 (arg f 1).toNat = codes := by rw [hlen, argBytes_tail_two hp hl]
  rw [← hlen]
  refine ⟨fun hbad => hrun (writeString_badArg ?_), fun k hk hle => ?_⟩
  · rw [hslot]
    exact hbad.imp_left slotOf_none
  · have hk' : slotOf (arg f 0) = some k := by rw [hslot, slotOf_some hk]
    refine ⟨fun hr => hrun (writeString_inUse hk' hle hr), fun hr => hrun ?_⟩
    rw [writeString_done (u := s.receive _) hk' hle hr, hcodes]
    rfl

theorem readString_replies (s : State) (f : CommandFrame) (slot : Byte) (hs : s.Released) (hp : f.payload = [slot]) :
    (63 < slot.toNat → exec (.readString f) s = .next (replied s 0x44 f .badArg [] s)) ∧
      ∀ k : SlotId, slot.toNat = k.val →
        exec (.readString f) s = .next (replied s 0x44 f .ok
          (byteOf (s.slot k).codes.length :: (s.slot k).codes ++ [byteOf (s.slot k).refCount]) s) := by
  have hrun {c : ResultCode} {p : List Byte}
      (he : readString f (s.receive (frameBytes 0x44 f)) = (⟨c, p⟩, s.receive (frameBytes 0x44 f))) :
      exec (.readString f) s = .next (replied s 0x44 f c p s) :=
    runCommand_answers hs (keepsPort_readString f) (by simp [hp]) he
  rw [← arg_zero hp]
  exact ⟨fun hbad => hrun (readString_badArg (slotOf_none hbad)), fun k hk => hrun (readString_done (slotOf_some hk))⟩

/-- Settles O29: each command by its checks in order, WRITE STRING then by the slot's reference count. -/
theorem stringSlotsWriteAndRead : Obligations.StringSlotsWriteAndRead := ⟨writeString_replies, readString_replies⟩

end Sys2Proof.Machine
end

section
/-! Glyph cell data (R184): the places of the shades in the 60 bytes of a cell, and READ GLYPH (R85). -/

namespace Sys2Proof.Machine

/-! ### A byte of four shades -/

theorem shadeOf_number (x : Shade) : shadeOf x.number = x := by cases x <;> rfl

theorem number_shadeOf (v : BitVec 2) : (shadeOf v).number = v := by revert v; decide

/-- The pairs of places of four pairs put together. -/
theorem pairs_of_append (v3 v2 v1 v0 : BitVec 2) :
    (v3 ++ v2 ++ v1 ++ v0).extractLsb' 6 2 = v3 ∧ (v3 ++ v2 ++ v1 ++ v0).extractLsb' 4 2 = v2 ∧
      (v3 ++ v2 ++ v1 ++ v0).extractLsb' 2 2 = v1 ∧ (v3 ++ v2 ++ v1 ++ v0).extractLsb' 0 2 = v0 := by
  refine ⟨?_, ?_, ?_, BitVec.extractLsb'_append_eq_right⟩
  · rw [BitVec.extractLsb'_append_eq_of_le (by decide), BitVec.extractLsb'_append_eq_of_le (by decide)]
    exact BitVec.extractLsb'_append_eq_left
  · rw [BitVec.extractLsb'_append_eq_of_le (by decide), BitVec.extractLsb'_append_eq_of_le (by decide)]
    exact BitVec.extractLsb'_append_eq_right
  · rw [BitVec.extractLsb'_append_eq_of_le (by decide)]
    exact BitVec.extractLsb'_append_eq_right

/-- The four pairs of places of a byte, put together again. -/
theorem append_of_pairs (b : Byte) :
    (b.extractLsb' 6 2 ++ b.extractLsb' 4 2 ++ b.extractLsb' 2 2 ++ b.extractLsb' 0 2 : Byte) = b := by
  have hhigh : b.extractLsb' 6 2 ++ b.extractLsb' 4 2 = b.extractLsb' 4 4 :=
    BitVec.extractLsb'_append_extractLsb'_eq_extractLsb' rfl
  have hmid : b.extractLsb' 4 4 ++ b.extractLsb' 2 2 = b.extractLsb' 2 6 :=
    BitVec.extractLsb'_append_extractLsb'_eq_extractLsb' rfl
  have hlow : b.extractLsb' 2 6 ++ b.extractLsb' 0 2 = b.extractLsb' 0 8 :=
    BitVec.extractLsb'_append_extractLsb'_eq_extractLsb' rfl
  rw [hhigh, hmid, hlow, BitVec.extractLsb'_eq_self]

theorem shadesOfByte_byteOfShades (s0 s1 s2 s3 : Shade) :
    shadesOfByte (byteOfShades s0 s1 s2 s3) = [s0, s1, s2, s3] := by
  obtain ⟨h0, h1, h2, h3⟩ := pairs_of_append s0.number s1.number s2.number s3.number
  simp only [shadesOfByte, byteOfShades, h0, h1, h2, h3, shadeOf_number]

/-! ### A run of bytes as a run of shades -/

/-- The shades of a run of bytes, four to a byte. -/
def shadesOfBytes (bytes : List Byte) : List Shade := bytes.flatMap shadesOfByte

theorem shadesOfBytes_cons (b : Byte) (bytes : List Byte) :
    shadesOfBytes (b :: bytes) = shadesOfByte b ++ shadesOfBytes bytes := List.flatMap_cons

theorem length_shadesOfBytes (bytes : List Byte) : (shadesOfBytes bytes).length = 4 * bytes.length := by
  induction bytes with
  | nil => rfl
  | cons b bytes ih =>
    have hbyte : (shadesOfByte b).length = 4 := rfl
    rw [shadesOfBytes_cons, List.length_append, hbyte, ih, List.length_cons, Nat.mul_succ, Nat.add_comm]

/-- Place `j` of the shades of a byte, the lowest column in the most significant places (R184). -/
theorem getElem?_shadesOfByte (b : Byte) {j : Nat} (h : j < 4) :
    (shadesOfByte b)[j]? = some (shadeOf (b.extractLsb' (2 * (3 - j)) 2)) := by
  interval_cases j <;> rfl

/-- The shade at a place of a run stands in the byte of its four (R184). -/
theorem getElem?_shadesOfBytes (bytes : List Byte) (i : Nat) :
    (shadesOfBytes bytes)[i]? = bytes[i / 4]?.map fun b => shadeOf (b.extractLsb' (2 * (3 - i % 4)) 2) := by
  induction bytes generalizing i with
  | nil => rfl
  | cons b bytes ih =>
    have hlen : (shadesOfByte b).length = 4 := rfl
    rw [shadesOfBytes_cons]
    by_cases hi : i < 4
    · rw [List.getElem?_append_left (by omega), getElem?_shadesOfByte b hi, Nat.div_eq_of_lt hi, Nat.mod_eq_of_lt hi]
      rfl
    · obtain ⟨j, rfl⟩ : ∃ j, i = j + 4 := ⟨i - 4, by omega⟩
      rw [List.getElem?_append_right (by omega), hlen, Nat.add_sub_cancel, ih, Nat.add_mod_right,
        Nat.add_div_right j (by decide), List.getElem?_cons_succ]

theorem bytesOfShades_shadesOfBytes (bytes : List Byte) : bytesOfShades (shadesOfBytes bytes) = bytes := by
  induction bytes with
  | nil => rfl
  | cons b bytes ih =>
    have hbyte : bytesOfShades (shadesOfBytes (b :: bytes)) =
        byteOfShades (shadeOf (b.extractLsb' 6 2)) (shadeOf (b.extractLsb' 4 2)) (shadeOf (b.extractLsb' 2 2))
          (shadeOf (b.extractLsb' 0 2)) :: bytesOfShades (shadesOfBytes bytes) := rfl
    rw [hbyte, ih]
    simp only [byteOfShades, number_shadeOf, append_of_pairs]

/-- A run of whole groups of four shades makes as many bytes, which hold the same shades. -/
theorem bytesOfShades_groups (n : Nat) (xs : List Shade) (h : xs.length = 4 * n) :
    (bytesOfShades xs).length = n ∧ shadesOfBytes (bytesOfShades xs) = xs := by
  induction n generalizing xs with
  | zero => rw [List.length_eq_zero_iff.mp h]; exact ⟨rfl, rfl⟩
  | succ n ih =>
    match xs, h with
    | s0 :: s1 :: s2 :: s3 :: rest, h =>
      obtain ⟨hlen, hback⟩ := ih rest (by simpa [Nat.mul_succ] using h)
      rw [bytesOfShades, shadesOfBytes_cons, shadesOfByte_byteOfShades, hback, List.length_cons, hlen]
      exact ⟨rfl, rfl⟩

/-! ### A cell in its 60 bytes (R184) -/

theorem cellOfBytes_eq (bytes : List Byte) :
    cellOfBytes bytes = Vector.ofFn fun i => (shadesOfBytes bytes).getD i.val .clear := rfl

theorem toList_cellOfBytes {data : List Byte} (h : data.length = 60) :
    (cellOfBytes data).toList = shadesOfBytes data := by
  have hlen : (shadesOfBytes data).length = 240 := by rw [length_shadesOfBytes, h]
  refine List.ext_getElem (by simp [hlen]) fun i hi hi' => ?_
  simp [cellOfBytes_eq, hi']

theorem cellBytes_cellOfBytes {data : List Byte} (h : data.length = 60) : cellBytes (cellOfBytes data) = data := by
  rw [cellBytes, toList_cellOfBytes h, bytesOfShades_shadesOfBytes]

theorem length_cellBytes (cell : GlyphCell) : (cellBytes cell).length = 60 :=
  (bytesOfShades_groups 60 cell.toList (by simp)).1

theorem cellOfBytes_cellBytes (cell : GlyphCell) : cellOfBytes (cellBytes cell) = cell := by
  refine Vector.toList_inj.mp ?_
  rw [toList_cellOfBytes (length_cellBytes cell), cellBytes]
  exact (bytesOfShades_groups 60 cell.toList (by simp)).2

/-- Glyph row r, column c stands in byte 3r + c div 4, column 4i in the two most significant places (R184). -/
theorem getElem?_cellOfBytes {data : List Byte} (h : data.length = 60) (r : Fin 20) (c : Fin 12) :
    (cellOfBytes data)[12 * r.val + c.val]? =
      some (shadeOf ((data.getD (3 * r.val + c.val / 4) 0).extractLsb' (2 * (3 - c.val % 4)) 2)) := by
  have hbyte : (12 * r.val + c.val) / 4 = 3 * r.val + c.val / 4 := by omega
  have hplace : (12 * r.val + c.val) % 4 = c.val % 4 := by omega
  have hlt : 3 * r.val + c.val / 4 < data.length := by omega
  rw [← Vector.getElem?_toList, toList_cellOfBytes h, getElem?_shadesOfBytes, hbyte, hplace,
    List.getD_eq_getElem _ _ hlt, List.getElem?_eq_getElem hlt, Option.map_some]

/-! ### READ GLYPH (R85) -/

theorem headerBytes_of_held {s : State} {p : Page} {used : Bool} (h : used = true ↔ s.PageHeld p) (hd : PageHeader) :
    headerBytes hd (s.pageInUse p) =
      [byteOf hd.digitBase, byteOf hd.amGlyph, byteOf hd.pmGlyph, byteOf hd.weekdayBase,
        if used then 0x01 else 0x00] := by
  have hused : s.pageInUse p = used := Bool.eq_iff_iff.mpr ((s.pageInUse_iff p).trans h.symm)
  rw [hused]
  rfl

theorem readGlyph_replies (s : State) (f : CommandFrame) (page sel : Byte) (hs : s.Released)
    (hp : f.payload = [page, sel]) :
    (1 < page.toNat ∨ (127 < sel.toNat ∧ sel ≠ 0xFF) →
        exec (.readGlyph f) s = .next (replied s 0x42 f .badArg [] s)) ∧
      ∀ p : Page, page = p.byte →
        (∀ c : Fin 128, sel.toNat = c.val →
            exec (.readGlyph f) s = .next (replied s 0x42 f .ok (cellBytes (s.page p).cells[c]) s)) ∧
          ∀ used : Bool, (used = true ↔ s.PageHeld p) → sel = 0xFF →
            exec (.readGlyph f) s = .next (replied s 0x42 f .ok
              [byteOf (s.page p).header.digitBase, byteOf (s.page p).header.amGlyph,
                byteOf (s.page p).header.pmGlyph, byteOf (s.page p).header.weekdayBase,
                if used then 0x01 else 0x00] s) := by
  have hrun {c : ResultCode} {p : List Byte}
      (he : readGlyph f (s.receive (frameBytes 0x42 f)) = (⟨c, p⟩, s.receive (frameBytes 0x42 f))) :
      exec (.readGlyph f) s = .next (replied s 0x42 f c p s) :=
    runCommand_answers hs (keepsPort_readGlyph f) (by simp [hp]) he
  have hpage := arg_zero hp
  have hsel := arg_one hp
  refine ⟨fun hbad => hrun (readGlyph_badArg ?_), fun p hpb => ?_⟩
  · rw [hpage, hsel]
    exact hbad.imp pageOf_none fun ⟨habove, hne⟩ => glyphSelectorOf_none habove hne
  · have hp' : pageOf (arg f 0) = some p := by rw [hpage, hpb, pageOf_byte]
    refine ⟨fun c hc => hrun ?_, fun used hused hff => hrun ?_⟩
    · rw [readGlyph_cell hp' (by rw [hsel, glyphSelectorOf_cell hc]), State.page_receive]
    · rw [readGlyph_header hp' (by rw [hsel, hff, glyphSelectorOf_header]),
        headerBytes_of_held (s := s.receive _) hused, State.page_receive]

/-- Settles O28: READ GLYPH by its checks and its selector; the place of each shade, and both round trips. -/
theorem glyphCellsReadBack : Obligations.GlyphCellsReadBack :=
  ⟨readGlyph_replies, fun _ r c h => getElem?_cellOfBytes h r c, fun _ h => cellBytes_cellOfBytes h,
    fun cell => ⟨length_cellBytes cell, cellOfBytes_cellBytes cell⟩⟩

end Sys2Proof.Machine
end

section
/-! The calendar as a count (R96 to R98, R103): days, hours, minutes, seconds and milliseconds from the first value of
the range, what one step forward or back does to each, and that a valid value is known by its milliseconds. -/

namespace Sys2Proof.Machine

/-! ### Days of a year -/

/-- The days from 2000-01-01 to the first day of a year (R97). -/
def yearStart (year : Nat) : Nat := (year - 2000) * 365 + (year - 2000 + 3) / 4

theorem yearStart_succ {year : Nat} (h : 2000 ≤ year) :
    yearStart (year + 1) = yearStart year + (if isLeap year then 366 else 365) := by
  simp only [yearStart, isLeap, beq_iff_eq]
  split <;> omega

theorem yearStart_mono {y z : Nat} (h : y ≤ z) : yearStart y ≤ yearStart z := by
  unfold yearStart
  omega

theorem ClockValue.dayNumber_eq (v : ClockValue) :
    v.dayNumber = yearStart v.year + daysBeforeMonth v.year v.month + (v.day - 1) := rfl

theorem daysBeforeMonth_succ {month : Nat} (h : 1 ≤ month) (year : Nat) :
    daysBeforeMonth year (month + 1) = daysBeforeMonth year month + monthLength year month := by
  obtain ⟨m, rfl⟩ := Nat.exists_eq_add_of_le' h
  rfl

theorem daysBeforeMonth_mono (year : Nat) {m k : Nat} (h : m ≤ k) :
    daysBeforeMonth year m ≤ daysBeforeMonth year k := by
  refine monotone_nat_of_le_succ (f := daysBeforeMonth year) (fun j => ?_) h
  cases j with
  | zero => exact Nat.le_refl 0
  | succ j => exact Nat.le_add_right _ _

theorem daysBeforeMonth_whole (year : Nat) : daysBeforeMonth year 13 = if isLeap year then 366 else 365 := by
  simp only [daysBeforeMonth, monthLength]
  split <;> rfl

/-- A date lies before the end of its month, and so of its year (R97). -/
theorem ClockValue.FieldsOk.dayNumber_lt {v : ClockValue} (h : v.FieldsOk) (hy : 2000 ≤ v.year) :
    v.dayNumber < yearStart v.year + daysBeforeMonth v.year (v.month + 1) ∧ v.dayNumber < yearStart (v.year + 1) := by
  have hmonth := daysBeforeMonth_succ h.month_pos v.year
  have hyear := daysBeforeMonth_mono v.year (show v.month + 1 ≤ 13 by have := h.month_le; omega)
  rw [daysBeforeMonth_whole] at hyear
  have := h.day_pos
  have := h.day_le
  rw [ClockValue.dayNumber_eq, yearStart_succ hy]
  omega

theorem ClockValue.yearStart_le_dayNumber (v : ClockValue) : yearStart v.year ≤ v.dayNumber := by
  rw [ClockValue.dayNumber_eq]
  omega

/-! ### One step forward (R98) -/

theorem ClockValue.millis_eq (v : ClockValue) :
    v.millis =
      ((((yearStart v.year + daysBeforeMonth v.year v.month + (v.day - 1)) * 24 + v.hour) * 60 + v.minute) * 60
        + v.second) * 1000 + v.milli := rfl

theorem daysBeforeDecember (year : Nat) : daysBeforeMonth year 12 + 31 = if isLeap year then 366 else 365 :=
  daysBeforeMonth_whole year

theorem daysBeforeJanuary (year : Nat) : daysBeforeMonth year 1 = 0 := rfl

theorem ClockValue.millis_nextDay {v : ClockValue} (h : v.FieldsOk) (hy : 2000 ≤ v.year) :
    v.nextDay.millis = v.millis + 86400000 := by
  obtain ⟨hm1, hm12, hd1, hlen, -⟩ := h
  unfold ClockValue.nextDay
  split
  next =>
    simp only [ClockValue.millis_eq]
    omega
  next hlast =>
    unfold ClockValue.nextMonth
    dsimp only
    split
    · simp only [ClockValue.millis_eq, daysBeforeMonth_succ hm1]
      omega
    · have hdec : v.month = 12 := by omega
      have hyear := daysBeforeDecember v.year
      rw [hdec, monthLength_december] at hlen hlast
      simp only [ClockValue.millis_eq, yearStart_succ hy, hdec, daysBeforeJanuary]
      omega

theorem ClockValue.millis_nextHour {v : ClockValue} (h : v.FieldsOk) (hy : 2000 ≤ v.year) :
    v.nextHour.millis = v.millis + 3600000 := by
  unfold ClockValue.nextHour
  split
  · simp only [ClockValue.millis_eq]
    omega
  · have hfull := h.hour_le
    have hcarry : ({ v with hour := 0 } : ClockValue).FieldsOk := { h with hour_le := Nat.zero_le _ }
    rw [ClockValue.millis_nextDay hcarry hy]
    simp only [ClockValue.millis_eq]
    omega

theorem ClockValue.millis_nextMinute {v : ClockValue} (h : v.FieldsOk) (hy : 2000 ≤ v.year) :
    v.nextMinute.millis = v.millis + 60000 := by
  unfold ClockValue.nextMinute
  split
  · simp only [ClockValue.millis_eq]
    omega
  · have hfull := h.minute_le
    have hcarry : ({ v with minute := 0 } : ClockValue).FieldsOk := { h with minute_le := Nat.zero_le _ }
    rw [ClockValue.millis_nextHour hcarry hy]
    simp only [ClockValue.millis_eq]
    omega

theorem ClockValue.millis_nextSecond {v : ClockValue} (h : v.FieldsOk) (hy : 2000 ≤ v.year) :
    v.nextSecond.millis = v.millis + 1000 := by
  unfold ClockValue.nextSecond
  split
  · simp only [ClockValue.millis_eq]
    omega
  · have hfull := h.second_le
    have hcarry : ({ v with second := 0 } : ClockValue).FieldsOk := { h with second_le := Nat.zero_le _ }
    rw [ClockValue.millis_nextMinute hcarry hy]
    simp only [ClockValue.millis_eq]
    omega

theorem ClockValue.millis_addMillis {v : ClockValue} (h : v.FieldsOk) (hy : 2000 ≤ v.year) {a : Nat} (ha : a ≤ 999) :
    (v.addMillis a).millis = v.millis + a := by
  obtain ⟨h1, h2, h3, h4, h5, h6, h7, hmilli⟩ := h
  unfold ClockValue.addMillis
  split
  · simp only [ClockValue.millis_eq]
    omega
  · have hcarry : ({ v with milli := v.milli + a - 1000 } : ClockValue).FieldsOk :=
      ⟨h1, h2, h3, h4, h5, h6, h7, Nat.sub_le_of_le_add (by omega)⟩
    rw [ClockValue.millis_nextSecond hcarry hy]
    simp only [ClockValue.millis_eq]
    omega

/-! ### One step back (R103) -/

/-- `w` is the value `amount` milliseconds before `v`, or lies before the range because `v` has fewer behind it. -/
def ClockValue.Precedes (w v : ClockValue) (amount : Nat) : Prop :=
  (w.year < 2000 ∧ v.millis < amount) ∨ (2000 ≤ w.year ∧ w.millis + amount = v.millis)

/-- A borrow: the larger step is taken from the value whose smaller unit is filled up. -/
theorem ClockValue.Precedes.borrow {w u v : ClockValue} {a b : Nat} (h : w.Precedes u a)
    (hu : u.millis + b = v.millis + a) : w.Precedes v b :=
  h.imp (fun ⟨hw, hm⟩ => ⟨hw, by omega⟩) fun ⟨hw, hm⟩ => ⟨hw, by omega⟩

theorem ClockValue.prevDay_precedes {v : ClockValue} (h : v.FieldsOk) (hy : 2000 ≤ v.year) :
    v.prevDay.Precedes v 86400000 := by
  obtain ⟨hm1, hm12, hd1, hlen, hh, hmi, hs, hms⟩ := h
  unfold ClockValue.prevDay
  split
  next =>
    refine .inr ⟨hy, ?_⟩
    simp only [ClockValue.millis_eq]
    omega
  next hfirst =>
    unfold ClockValue.prevMonth
    split
    · have hbefore := daysBeforeMonth_succ (show 1 ≤ v.month - 1 by omega) v.year
      rw [show v.month - 1 + 1 = v.month by omega] at hbefore
      have hpos := one_le_monthLength v.year (v.month - 1)
      refine .inr ⟨hy, ?_⟩
      simp only [ClockValue.millis_eq]
      omega
    · have hjan : v.month = 1 := by omega
      by_cases h0 : v.year = 2000
      · refine .inl ⟨by simp only; omega, ?_⟩
        simp only [ClockValue.millis_eq, hjan, h0, yearStart, daysBeforeJanuary]
        omega
      · have hbefore := yearStart_succ (show 2000 ≤ v.year - 1 by omega)
        rw [show v.year - 1 + 1 = v.year by omega] at hbefore
        have hyear := daysBeforeDecember (v.year - 1)
        refine .inr ⟨by simp only; omega, ?_⟩
        simp only [ClockValue.millis_eq, hjan, monthLength_december, daysBeforeJanuary]
        omega

theorem ClockValue.prevHour_precedes {v : ClockValue} (h : v.FieldsOk) (hy : 2000 ≤ v.year) :
    v.prevHour.Precedes v 3600000 := by
  unfold ClockValue.prevHour
  split
  · refine .inr ⟨hy, ?_⟩
    simp only [ClockValue.millis_eq]
    omega
  · have hborrow : ({ v with hour := 23 } : ClockValue).FieldsOk := { h with hour_le := Nat.le_refl _ }
    refine (ClockValue.prevDay_precedes hborrow hy).borrow ?_
    simp only [ClockValue.millis_eq]
    omega

theorem ClockValue.prevMinute_precedes {v : ClockValue} (h : v.FieldsOk) (hy : 2000 ≤ v.year) :
    v.prevMinute.Precedes v 60000 := by
  unfold ClockValue.prevMinute
  split
  · refine .inr ⟨hy, ?_⟩
    simp only [ClockValue.millis_eq]
    omega
  · have hborrow : ({ v with minute := 59 } : ClockValue).FieldsOk := { h with minute_le := Nat.le_refl _ }
    refine (ClockValue.prevHour_precedes hborrow hy).borrow ?_
    simp only [ClockValue.millis_eq]
    omega

theorem ClockValue.prevSecond_precedes {v : ClockValue} (h : v.FieldsOk) (hy : 2000 ≤ v.year) :
    v.prevSecond.Precedes v 1000 := by
  unfold ClockValue.prevSecond
  split
  · refine .inr ⟨hy, ?_⟩
    simp only [ClockValue.millis_eq]
    omega
  · have hborrow : ({ v with second := 59 } : ClockValue).FieldsOk := { h with second_le := Nat.le_refl _ }
    refine (ClockValue.prevMinute_precedes hborrow hy).borrow ?_
    simp only [ClockValue.millis_eq]
    omega

theorem ClockValue.subMillis_precedes {v : ClockValue} (h : v.FieldsOk) (hy : 2000 ≤ v.year) {a : Nat} (ha : a ≤ 999) :
    (v.subMillis a).Precedes v a := by
  obtain ⟨h1, h2, h3, h4, h5, h6, h7, hmilli⟩ := h
  unfold ClockValue.subMillis
  split
  · refine .inr ⟨hy, ?_⟩
    simp only [ClockValue.millis_eq]
    omega
  · have hborrow : ({ v with milli := v.milli + 1000 - a } : ClockValue).FieldsOk :=
      ⟨h1, h2, h3, h4, h5, h6, h7, show v.milli + 1000 - a ≤ 999 by omega⟩
    refine (ClockValue.prevSecond_precedes hborrow hy).borrow ?_
    simp only [ClockValue.millis_eq]
    omega

/-! ### The range of the clock (R96, R97) -/

theorem ClockValue.millis_last : ClockValue.last.millis = 36525 * 86400000 - 1 := by decide

/-- A value's milliseconds lie within its year. -/
theorem ClockValue.FieldsOk.millis_bounds {v : ClockValue} (h : v.FieldsOk) (hy : 2000 ≤ v.year) :
    yearStart v.year * 86400000 ≤ v.millis ∧ v.millis < yearStart (v.year + 1) * 86400000 := by
  have hlow := v.yearStart_le_dayNumber
  have hhigh := (h.dayNumber_lt hy).2
  obtain ⟨-, -, -, -, hh, hmi, hs, hms⟩ := h
  unfold ClockValue.millis
  omega

/-- From 2000 on, a date and time lies within the range of years if its milliseconds reach at most the last value. -/
theorem ClockValue.FieldsOk.year_le_iff {v : ClockValue} (h : v.FieldsOk) (hy : 2000 ≤ v.year) :
    v.year ≤ 2099 ↔ v.millis ≤ ClockValue.last.millis := by
  obtain ⟨hlow, hhigh⟩ := h.millis_bounds hy
  rw [ClockValue.millis_last]
  unfold yearStart at hlow hhigh
  omega

theorem ClockValue.millis_le_last {v : ClockValue} (h : v.valid = true) : v.millis ≤ ClockValue.last.millis := by
  obtain ⟨hr, hf⟩ := (ClockValue.valid_iff v).mp h
  obtain ⟨hy, hy'⟩ := (ClockValue.inRange_iff v).mp hr
  exact (hf.year_le_iff hy).mp hy'

/-! ### A value is known by its milliseconds (R97) -/

/-- Of two dates of one year, one in an earlier month lies before the other. -/
theorem ClockValue.dayNumber_lt_of_month_lt {v w : ClockValue} (hv : v.FieldsOk) (hy : 2000 ≤ v.year)
    (hyear : v.year = w.year) (hlt : v.month < w.month) : v.dayNumber < w.dayNumber := by
  have hend := (hv.dayNumber_lt hy).1
  have hmono := daysBeforeMonth_mono v.year (show v.month + 1 ≤ w.month from hlt)
  rw [w.dayNumber_eq, ← hyear]
  omega

/-- A date in an earlier year lies before one in a later year. -/
theorem ClockValue.dayNumber_lt_of_year_lt {v w : ClockValue} (hv : v.FieldsOk) (hy : 2000 ≤ v.year)
    (hlt : v.year < w.year) : v.dayNumber < w.dayNumber := by
  have hend := (hv.dayNumber_lt hy).2
  have hmono := yearStart_mono (show v.year + 1 ≤ w.year from hlt)
  have hstart := w.yearStart_le_dayNumber
  omega

/-- Equal day numbers are equal dates: the calendar repeats no date. -/
theorem ClockValue.date_eq_of_dayNumber_eq {v w : ClockValue} (hv : v.FieldsOk) (hw : w.FieldsOk)
    (hyv : 2000 ≤ v.year) (hyw : 2000 ≤ w.year) (h : v.dayNumber = w.dayNumber) :
    v.year = w.year ∧ v.month = w.month ∧ v.day = w.day := by
  have hyear : v.year = w.year := by
    rcases Nat.lt_trichotomy v.year w.year with hlt | heq | hgt
    · exact absurd h (ClockValue.dayNumber_lt_of_year_lt hv hyv hlt).ne
    · exact heq
    · exact absurd h (ClockValue.dayNumber_lt_of_year_lt hw hyw hgt).ne'
  have hmonth : v.month = w.month := by
    rcases Nat.lt_trichotomy v.month w.month with hlt | heq | hgt
    · exact absurd h (ClockValue.dayNumber_lt_of_month_lt hv hyv hyear hlt).ne
    · exact heq
    · exact absurd h (ClockValue.dayNumber_lt_of_month_lt hw hyw hyear.symm hgt).ne'
  rw [v.dayNumber_eq, w.dayNumber_eq, hyear, hmonth] at h
  have hdv := hv.day_pos
  have hdw := hw.day_pos
  exact ⟨hyear, hmonth, by omega⟩

theorem ClockValue.dayNumber_eq_millis_div {v : ClockValue} (h : v.FieldsOk) : v.dayNumber = v.millis / 86400000 := by
  obtain ⟨-, -, -, -, hh, hmi, hs, hms⟩ := h
  unfold ClockValue.millis
  omega

theorem ClockValue.eq_of_millis_eq {v w : ClockValue} (hv : v.valid = true) (hw : w.valid = true)
    (h : v.millis = w.millis) : v = w := by
  obtain ⟨hrv, hfv⟩ := (ClockValue.valid_iff v).mp hv
  obtain ⟨hrw, hfw⟩ := (ClockValue.valid_iff w).mp hw
  rw [ClockValue.inRange_iff] at hrv hrw
  have hdays : v.dayNumber = w.dayNumber := by
    rw [ClockValue.dayNumber_eq_millis_div hfv, ClockValue.dayNumber_eq_millis_div hfw, h]
  obtain ⟨hyear, hmonth, hday⟩ := ClockValue.date_eq_of_dayNumber_eq hfv hfw hrv.1 hrw.1 hdays
  obtain ⟨-, -, -, -, hh, hmi, hs, hms⟩ := hfv
  obtain ⟨-, -, -, -, hh', hmi', hs', hms'⟩ := hfw
  have htime : v.hour = w.hour ∧ v.minute = w.minute ∧ v.second = w.second ∧ v.milli = w.milli := by
    simp only [ClockValue.millis, hdays] at h
    omega
  obtain ⟨hhour, hminute, hsecond, hmilli⟩ := htime
  cases v
  cases w
  simp_all only

theorem monthLength_table (year : Nat) :
    [1, 2, 3, 4, 5, 6, 7, 8, 9, 10, 11, 12].map (monthLength year) =
      [31, if year % 4 = 0 then 29 else 28, 31, 30, 31, 30, 31, 31, 30, 31, 30, 31] := by
  simp only [List.map, monthLength, isLeap, beq_iff_eq]

/-- Settles O33: a valid value is known by its milliseconds, which end with the year 2099, and the weekday follows the
whole days among them. -/
theorem calendarCounts : Obligations.CalendarCounts := by
  refine ⟨monthLength_table, fun v w => ClockValue.eq_of_millis_eq, by decide, ClockValue.millis_last,
    fun v => ClockValue.millis_le_last, by decide, by decide, fun v hv => ?_, by decide⟩
  rw [ClockValue.weekday, ClockValue.dayNumber_eq_millis_div ((ClockValue.valid_iff v).mp hv).2]

end Sys2Proof.Machine
end

section
/-! The clock commands (R101 to R104) and READ STATUS (R154). -/

namespace Sys2Proof.Machine

/-! ### A clock value in its nine bytes (R101, R179) -/

theorem ClockValue.valid_iff_ranges (v : ClockValue) :
    v.valid = true ↔
      (2000 ≤ v.year ∧ v.year ≤ 2099 ∧ 1 ≤ v.month ∧ v.month ≤ 12 ∧ 1 ≤ v.day ∧ v.day ≤ monthLength v.year v.month ∧
        v.hour ≤ 23 ∧ v.minute ≤ 59 ∧ v.second ≤ 59 ∧ v.milli ≤ 999) := by
  simp only [ClockValue.valid, ClockValue.inRange, Bool.and_eq_true, decide_eq_true_eq, and_assoc]

/-- The values of a clock value fit the bytes that carry them. -/
structure ClockValue.Fits (v : ClockValue) : Prop where
  year   : v.year < 2 ^ 16
  month  : v.month < 2 ^ 8
  day    : v.day < 2 ^ 8
  hour   : v.hour < 2 ^ 8
  minute : v.minute < 2 ^ 8
  second : v.second < 2 ^ 8
  milli  : v.milli < 2 ^ 16

theorem length_clockBytes (v : ClockValue) : (clockBytes v).length = 9 := by
  simp [clockBytes, length_beBytes]

/-- The bytes of a clock value, each field in front of the ones behind it. -/
theorem clockBytes_eq (v : ClockValue) :
    clockBytes v =
      beBytes 2 v.year ++ (beBytes 1 v.month ++ (beBytes 1 v.day ++ (beBytes 1 v.hour ++ (beBytes 1 v.minute ++
        (beBytes 1 v.second ++ (beBytes 2 v.milli ++ [])))))) := by
  simp [clockBytes, beBytes, byteOf]

/-- A clock value is read back from its bytes if it is a valid date and time. -/
theorem clockOf_clockBytes {v : ClockValue} (h : v.Fits) :
    clockOf (clockBytes v) = if v.valid then some v else none := by
  obtain ⟨h1, h2, h3, h4, h5, h6, h7⟩ := h
  rw [clockBytes_eq]
  simp (disch := omega) only [clockOf, numAt_skip_beBytes, Nat.reduceSub, numAt_here]

/-! ### SET CLOCK and HOLD CLOCK (R101, R102) -/

theorem setClock_badArg {f : CommandFrame} {u : State} (h : clockOf (argBytes f 0 9) = none) :
    setClock f u = (.bare .badArg, u) := by
  unfold setClock
  rw [h]

theorem setClock_done {f : CommandFrame} {u : State} {v : ClockValue} (h : clockOf (argBytes f 0 9) = some v) :
    setClock f u = (.done, { u with clock := v, clockState := .running }) := by
  unfold setClock
  rw [h]

/-- Settles O30: the value is read back from its nine bytes exactly when it is valid. -/
theorem setAndHoldClock : Obligations.SetAndHoldClock := by
  refine ⟨fun s f v hs h1 h2 h3 h4 h5 h6 h7 hp => ?_, fun s f hs hp => ?_⟩
  · have hrun {c : ResultCode} {p : List Byte} {t : State}
        (he : setClock f (s.receive (frameBytes 0x50 f)) = (⟨c, p⟩, t.receive (frameBytes 0x50 f))) :
        exec (.setClock f) s = .next (replied s 0x50 f c p t) :=
      runCommand_answers hs (keepsPort_setClock f) (by simp [hp, length_clockBytes]) he
    have hread : clockOf (argBytes f 0 9) = if v.valid then some v else none := by
      rw [argBytes, List.drop_zero, hp, ← length_clockBytes v, List.take_length,
        clockOf_clockBytes ⟨h1, h2, h3, h4, h5, h6, h7⟩]
    rw [← ClockValue.valid_iff_ranges]
    refine ⟨fun hv => hrun (setClock_done ?_), fun hv => hrun (setClock_badArg ?_)⟩
    · rw [hread, if_pos hv]
    · rw [hread, if_neg hv]
  · exact runCommand_answers (t := { s with clockState := .stopped }) hs keepsPort_holdClock (by simp [hp]) rfl

/-! ### The sum of ADJUST CLOCK (R103) -/

/-- A carry never goes back in years. -/
theorem ClockValue.year_le_addMillis (v : ClockValue) (a : Nat) : v.year ≤ (v.addMillis a).year := by
  simp only [ClockValue.addMillis, ClockValue.nextSecond, ClockValue.nextMinute, ClockValue.nextHour,
    ClockValue.nextDay, ClockValue.nextMonth]
  split_ifs <;> simp

/-- The adjusted value lies before the range with the sum, or it stands at the sum from 2000 on. -/
theorem ClockValue.adjusted_cases {v : ClockValue} (h : v.FieldsOk) (hy : 2000 ≤ v.year) {amount : Int}
    (hl : -999 ≤ amount) (hu : amount ≤ 999) :
    ((v.adjusted amount).year < 2000 ∧ v.millis + amount < 0) ∨
      (2000 ≤ (v.adjusted amount).year ∧ ((v.adjusted amount).millis : Int) = v.millis + amount) := by
  unfold ClockValue.adjusted
  split
  · have hyear := v.year_le_addMillis amount.toNat
    have hsum := ClockValue.millis_addMillis h hy (a := amount.toNat) (by omega)
    exact .inr ⟨by omega, by omega⟩
  · exact (ClockValue.subMillis_precedes h hy (a := (-amount).toNat) (by omega)).imp
      (fun ⟨hw, hm⟩ => ⟨hw, by omega⟩) fun ⟨hw, hm⟩ => ⟨hw, by omega⟩

/-- The adjusted value lies in the clock's range exactly when the sum does (R103). -/
theorem ClockValue.inRange_adjusted_iff {v : ClockValue} (h : v.valid = true) {amount : Int}
    (hl : -999 ≤ amount) (hu : amount ≤ 999) :
    (v.adjusted amount).inRange = true ↔
      0 ≤ (v.millis : Int) + amount ∧ (v.millis : Int) + amount ≤ ClockValue.last.millis := by
  obtain ⟨hr, hf⟩ := (ClockValue.valid_iff v).mp h
  rw [ClockValue.inRange_iff]
  rcases ClockValue.adjusted_cases hf ((ClockValue.inRange_iff v).mp hr).1 hl hu with ⟨hw, hm⟩ | ⟨hw, hm⟩
  · omega
  · rw [(hf.adjusted hl hu).year_le_iff hw]
    omega

theorem ClockValue.millis_adjusted {v : ClockValue} (h : v.valid = true) {amount : Int} (hl : -999 ≤ amount)
    (hu : amount ≤ 999) (hin : (v.adjusted amount).inRange = true) :
    (v.adjusted amount).valid = true ∧ ((v.adjusted amount).millis : Int) = v.millis + amount := by
  obtain ⟨hr, hf⟩ := (ClockValue.valid_iff v).mp h
  refine ⟨(ClockValue.valid_iff _).mpr ⟨hin, hf.adjusted hl hu⟩, ?_⟩
  rcases ClockValue.adjusted_cases hf ((ClockValue.inRange_iff v).mp hr).1 hl hu with ⟨hw, -⟩ | ⟨-, hm⟩
  · have := ((ClockValue.inRange_iff _).mp hin).1
    omega
  · exact hm

/-! ### ADJUST CLOCK (R103) -/

/-- The amount in its two bytes, in two's complement (R179). -/
theorem amountOf_pair (hi lo : Byte) :
    amountOf [hi, lo] =
      if -999 ≤ (hi ++ lo : BitVec 16).toInt ∧ (hi ++ lo : BitVec 16).toInt ≤ 999 then some (hi ++ lo : BitVec 16).toInt
      else none := by
  have hbytes : numAt [hi, lo] 0 2 = hi.toNat * 256 + lo.toNat := by simp [numAt, beNat]
  have hnum : BitVec.ofNat 16 (numAt [hi, lo] 0 2) = (hi ++ lo : BitVec 16) := by
    have hhi := hi.isLt
    have hlo := lo.isLt
    refine BitVec.eq_of_toNat_eq ?_
    rw [BitVec.toNat_append, ← Nat.shiftLeft_add_eq_or_of_lt lo.isLt, Nat.shiftLeft_eq, BitVec.toNat_ofNat, hbytes]
    omega
  simp only [amountOf, hnum]

section
variable {f : CommandFrame} {u : State}

theorem adjustClock_badArg (h : amountOf (argBytes f 0 2) = none) : adjustClock f u = (.bare .badArg, u) := by
  simp only [adjustClock, h]

section
variable {amount : Int} (h : amountOf (argBytes f 0 2) = some amount)
include h

theorem adjustClock_outOfRange (hr : (u.clock.adjusted amount).inRange ≠ true) :
    adjustClock f u = (.bare .badArg, u) := by
  simp only [adjustClock, h, if_neg hr]

theorem adjustClock_done (hr : (u.clock.adjusted amount).inRange = true) :
    adjustClock f u = (.done, { u with clock := u.clock.adjusted amount }) := by
  simp only [adjustClock, h, if_pos hr]

end

end

/-- Settles O31: the amount by its range, then the adjusted value, which lies in the range exactly when the sum does. -/
theorem adjustClockAdds : Obligations.AdjustClockAdds := by
  intro s f hi lo hs hv hp amount sum
  have hrun {c : ResultCode} {p : List Byte} {t : State}
      (he : adjustClock f (s.receive (frameBytes 0x52 f)) = (⟨c, p⟩, t.receive (frameBytes 0x52 f))) :
      exec (.adjustClock f) s = .next (replied s 0x52 f c p t) :=
    runCommand_answers hs (keepsPort_adjustClock f) (by simp [hp]) he
  have hread : amountOf (argBytes f 0 2) = if -999 ≤ amount ∧ amount ≤ 999 then some amount else none := by
    rw [argBytes, hp]
    exact amountOf_pair hi lo
  by_cases ha : -999 ≤ amount ∧ amount ≤ 999
  · rw [if_pos ha] at hread
    have hrange := ClockValue.inRange_adjusted_iff hv ha.1 ha.2
    refine ⟨fun hbad => hrun (adjustClock_outOfRange hread ?_), fun _ _ h0 hlast => ?_⟩
    · exact fun hin => absurd (hrange.mp hin) (by omega)
    · have hin := hrange.mpr ⟨h0, hlast⟩
      obtain ⟨hvalid, hsum⟩ := ClockValue.millis_adjusted hv ha.1 ha.2 hin
      exact ⟨_, hvalid, hsum, hrun (t := { s with clock := _ }) (adjustClock_done hread hin)⟩
  · rw [if_neg ha] at hread
    exact ⟨fun _ => hrun (adjustClock_badArg hread), fun hl hu => absurd ⟨hl, hu⟩ ha⟩

/-! ### READ CLOCK and READ STATUS (R104, R154) -/

theorem flagByte_clockRunning (s : State) :
    flagByte s.clockRunning = if s.clockState = .running then 0x01 else 0x00 := by
  simp [flagByte, State.clockRunning]

theorem flagByte_drain_isSome (s : State) : flagByte s.drain.isSome = if s.drain = none then 0x00 else 0x01 := by
  cases s.drain <;> rfl

/-- Settles O32: each payload is the model's, field by field. -/
theorem clockAndStatusRead : Obligations.ClockAndStatusRead := by
  refine ⟨fun s f hs hp => ?_, fun s f hs hp => ?_⟩
  · rw [← flagByte_clockRunning]
    exact runCommand_answers hs keepsPort_readClock (by simp [hp]) rfl
  · rw [← flagByte_clockRunning, ← flagByte_drain_isSome]
    exact runCommand_answers hs keepsPort_readStatus (by simp [hp]) rfl

end Sys2Proof.Machine
end

section
/-! A tick (R15, R65, R66, R98 to R100, R185): what it does to one surface, then to all eight in order, then to the
clock. -/

namespace Sys2Proof.Machine

/-! ### What a run of ticking surfaces may do -/

/-- From `s` to `t` the notices `ns` were posted and the items `freed` went back to the pool; beside them and the
surface records nothing changed. -/
structure State.Ticks (s t : State) (freed : List Item) (ns : List Notice) : Prop where
  only    : s.OnlyTableAndNotices t
  counts  : s.CountsMoved t freed []
  notices : t.notices = postAll s.notices ns

theorem State.Ticks.refl (s : State) : s.Ticks s [] [] :=
  ⟨.refl s, ⟨rfl, fun _ => rfl⟩, rfl⟩

theorem State.Ticks.trans {s t u : State} {freed freed' : List Item} {ns ns' : List Notice} (h : s.Ticks t freed ns)
    (g : t.Ticks u freed' ns') : s.Ticks u (freed ++ freed') (ns ++ ns') := by
  obtain ⟨hfree, hslots⟩ := h.counts
  obtain ⟨gfree, gslots⟩ := g.counts
  refine ⟨h.only.trans g.only, ⟨?_, fun k => ?_⟩, ?_⟩
  · rw [gfree, hfree, List.length_append, List.length_nil]
    omega
  · rw [gslots, hslots]
    simp only [namesIn_append, namesIn_nil, Nat.add_zero, Nat.sub_sub]
  · rw [g.notices, h.notices, postAll_append]

theorem State.OnlyTableAndNotices.clockState {s t : State} (h : s.OnlyTableAndNotices t) :
    t.clockState = s.clockState := by
  rw [State.OnlyTableAndNotices] at h
  rw [h]

/-! ### The record of a surface (R15, R65, R66) -/

/-- A deadline expires at the next tick where that tick counts it down to 0. -/
theorem Surface.expiresNext_iff (r : Surface) :
    r.expiresNext = true ↔ r.countsDeadline = true ∧ r.countedDown.deadlineRemaining = some 0 := by
  change (r.countsDeadline && _) = true ↔ _
  unfold Surface.countedDown
  cases r.countsDeadline with
  | false => simp
  | true =>
    cases r.deadlineRemaining with
    | none => simp
    | some d => simp [Nat.sub_eq_zero_iff_le]

theorem Surface.countedDown_kept (r : Surface) :
    r.countedDown.state = r.state ∧ r.countedDown.commitPending = r.commitPending ∧
      r.countedDown.active = r.active ∧ r.countedDown.frame = r.frame := by
  unfold Surface.countedDown
  split <;> exact ⟨rfl, rfl, rfl, rfl⟩

theorem Surface.ticked_of_counting {r : Surface} (h : r.expiresNext ≠ true) : r.ticked = r.countedDown := by
  unfold Surface.ticked Surface.countedDown
  rw [if_neg h]
  exact if_congr r.countsDeadline_iff.symm rfl rfl

theorem Surface.ticked_of_live {r : Surface} (h : r.expiresNext = true) (hl : r.state = .live) :
    r.ticked = r.countedDown.committed := by
  unfold Surface.ticked Surface.countedDown
  rw [if_pos h, if_pos hl]
  split <;> rfl

theorem Surface.ticked_of_retiring {r : Surface} (h : r.expiresNext = true) (hr : r.state = .retiring) :
    r.ticked = r.countedDown.retired := by
  unfold Surface.ticked Surface.countedDown
  rw [if_pos h, if_neg (by simp [hr])]
  split <;> rfl

/-! ### One surface (R15, R65, R66) -/

theorem State.countDown_surf (s : State) (n : SurfaceId) : (s.countDown n).surf n = (s.surf n).countedDown :=
  (s.countDown_tableAfter n).1

theorem State.tickSurface_counting {s : State} {n : SurfaceId} (h : (s.surf n).expiresNext ≠ true) :
    s.tickSurface n = s.countDown n := by
  obtain ⟨hstate, hpend, -, -⟩ := (s.surf n).countedDown_kept
  rw [ne_eq, Surface.expiresNext_iff, Surface.countsDeadline_iff] at h
  have hcommit : (s.countDown n).forceCommit n = s.countDown n := by
    refine State.forceCommit_idle ?_
    rw [State.countDown_surf, hstate, hpend]
    exact fun ⟨hl, hp, hd⟩ => h ⟨.inl ⟨hl, hp⟩, hd⟩
  rw [State.tickSurface, hcommit]
  refine State.forceRetirement_idle ?_
  rw [State.countDown_surf, hstate]
  exact fun ⟨hr, hd⟩ => h ⟨.inr hr, hd⟩

theorem State.tickSurface_live {s : State} {n : SurfaceId} (h : (s.surf n).expiresNext = true)
    (hl : (s.surf n).state = .live) :
    s.tickSurface n = ((s.countDown n).applyCommit n).post (.commitForced n (s.surf n).frame.number) := by
  obtain ⟨hstate, hpend, -, hframe⟩ := (s.surf n).countedDown_kept
  obtain ⟨hcounts, hzero⟩ := (Surface.expiresNext_iff _).mp h
  have hp : (s.surf n).commitPending = true := by
    rcases (Surface.countsDeadline_iff _).mp hcounts with ⟨-, hp⟩ | hr
    · exact hp
    · rw [hl] at hr; cases hr
  rw [State.tickSurface, State.forceCommit_acts] <;> try rw [State.countDown_surf]
  · rw [hframe]
    refine State.forceRetirement_idle fun ⟨hr, _⟩ => ?_
    rw [State.surf_post, ((s.countDown n).applyCommit_tableAfter n).1, State.countDown_surf] at hr
    simp [Surface.committed, hstate, hl] at hr
  · rw [hstate, hl]
  · rw [hpend, hp]
  · exact hzero

theorem State.tickSurface_retiring {s : State} {n : SurfaceId} (h : (s.surf n).expiresNext = true)
    (hr : (s.surf n).state = .retiring) : s.tickSurface n = (s.countDown n).completeRetirement n true := by
  obtain ⟨hstate, -, -, -⟩ := (s.surf n).countedDown_kept
  obtain ⟨-, hzero⟩ := (Surface.expiresNext_iff _).mp h
  have hcommit : (s.countDown n).forceCommit n = s.countDown n := by
    refine State.forceCommit_idle fun ⟨hl, _⟩ => ?_
    rw [State.countDown_surf, hstate, hr] at hl
    cases hl
  rw [State.tickSurface, hcommit]
  refine State.forceRetirement_acts ?_ ?_ <;> rw [State.countDown_surf]
  · rw [hstate, hr]
  · exact hzero

/-- What a tick does to one surface: it counts, or the expiry commits a LIVE surface or ends a retirement. -/
theorem State.tickSurface_cases (s : State) (n : SurfaceId) :
    ((s.surf n).expiresNext ≠ true ∧ s.tickSurface n = s.countDown n) ∨
      ((s.surf n).expiresNext = true ∧ (s.surf n).state = .live ∧
        s.tickSurface n = ((s.countDown n).applyCommit n).post (.commitForced n (s.surf n).frame.number)) ∨
      ((s.surf n).expiresNext = true ∧ (s.surf n).state = .retiring ∧
        s.tickSurface n = (s.countDown n).completeRetirement n true) := by
  by_cases h : (s.surf n).expiresNext = true
  · rcases (Surface.countsDeadline_iff _).mp ((Surface.expiresNext_iff _).mp h).1 with ⟨hl, -⟩ | hr
    · exact .inr (.inl ⟨h, hl, State.tickSurface_live h hl⟩)
    · exact .inr (.inr ⟨h, hr, State.tickSurface_retiring h hr⟩)
  · exact .inl ⟨h, State.tickSurface_counting h⟩

theorem State.tickSurface_tableAfter_ticked (s : State) (n : SurfaceId) :
    s.TableAfter (s.tickSurface n) n (s.surf n).ticked := by
  have hdown := s.countDown_tableAfter n
  rcases s.tickSurface_cases n with ⟨h, e⟩ | ⟨h, hl, e⟩ | ⟨h, hr, e⟩ <;> rw [e]
  · rw [Surface.ticked_of_counting h]
    exact hdown
  · rw [Surface.ticked_of_live h hl, ← s.countDown_surf n]
    exact hdown.trans ((s.countDown n).applyCommit_tableAfter n)
  · rw [Surface.ticked_of_retiring h hr, ← s.countDown_surf n]
    exact hdown.trans ((s.countDown n).completeRetirement_tableAfter n true)

theorem State.ticks_countDown (s : State) (n : SurfaceId) : s.Ticks (s.countDown n) [] [] := by
  unfold State.countDown
  split
  · exact ⟨s.onlyTableAndNotices_setSurf n _, ⟨rfl, fun _ => rfl⟩, rfl⟩
  · exact .refl s

theorem State.ticks_tickSurface (s : State) (n : SurfaceId) :
    s.Ticks (s.tickSurface n) (s.surf n).tickFrees ((s.surf n).tickNotice n) := by
  have hdown := s.ticks_countDown n
  obtain ⟨-, -, hactive, hframe⟩ := (s.surf n).countedDown_kept
  unfold Surface.tickFrees Surface.tickNotice
  rcases s.tickSurface_cases n with ⟨h, e⟩ | ⟨h, hl, e⟩ | ⟨h, hr, e⟩ <;> rw [e]
  · rw [if_neg h, if_neg h]
    exact hdown
  · obtain ⟨-, hcounts, -⟩ := (s.countDown n).applyCommit_spec n
    rw [State.countDown_surf, hactive] at hcounts
    rw [if_pos h, if_pos h, if_pos hl]
    exact hdown.trans
      ⟨((s.countDown n).onlyTableAndNotices_applyCommit n).trans (State.onlyTableAndNotices_post _ _), hcounts, rfl⟩
  · obtain ⟨hnotices, -, hcounts, -⟩ := (s.countDown n).completeRetirement_spec n true
    rw [State.countDown_surf] at hcounts hnotices
    rw [hactive] at hcounts
    rw [hframe] at hnotices
    rw [if_pos h, if_pos h, if_neg (by simp [hr])]
    exact hdown.trans ⟨(s.countDown n).onlyTableAndNotices_completeRetirement n true, hcounts, hnotices⟩

/-! ### The surfaces in order (R185) -/

/-- Surfaces ticked one after another: each as it stood, since the ones before it are others. -/
theorem State.tickSurfaces_surf (s : State) {ns : List SurfaceId} (hn : ns.Nodup) (m : SurfaceId) :
    (ns.foldl State.tickSurface s).surf m = if m ∈ ns then (s.surf m).ticked else s.surf m := by
  induction ns generalizing s with
  | nil => rfl
  | cons n ns ih =>
    obtain ⟨hnot, hrest⟩ := List.nodup_cons.mp hn
    obtain ⟨hhere, hothers⟩ := s.tickSurface_tableAfter_ticked n
    rw [List.foldl_cons, ih _ hrest]
    by_cases hm : m = n
    · rw [hm, if_neg hnot, if_pos List.mem_cons_self, hhere]
    · rw [hothers m hm]
      exact if_congr (by simp [hm]) rfl rfl

theorem State.ticks_tickSurfaces (s : State) {ns : List SurfaceId} (hn : ns.Nodup) :
    s.Ticks (ns.foldl State.tickSurface s) (ns.flatMap fun n => (s.surf n).tickFrees)
      (ns.flatMap fun n => (s.surf n).tickNotice n) := by
  induction ns generalizing s with
  | nil => exact .refl s
  | cons n ns ih =>
    obtain ⟨hnot, hrest⟩ := List.nodup_cons.mp hn
    have hsame (m : SurfaceId) (hm : m ∈ ns) : (s.tickSurface n).surf m = s.surf m :=
      (s.tickSurface_tableAfter_ticked n).2 m fun he => hnot (he ▸ hm)
    have hfrees : (ns.flatMap fun m => ((s.tickSurface n).surf m).tickFrees)
        = ns.flatMap fun m => (s.surf m).tickFrees := List.flatMap_congr fun m hm => by rw [hsame m hm]
    have hnotices : (ns.flatMap fun m => ((s.tickSurface n).surf m).tickNotice m)
        = ns.flatMap fun m => (s.surf m).tickNotice m := List.flatMap_congr fun m hm => by rw [hsame m hm]
    have hlater := ih (s.tickSurface n) hrest
    rw [hfrees, hnotices] at hlater
    exact (s.ticks_tickSurface n).trans hlater

/-! ### The clock, and the tick as a whole (R98 to R100, R185) -/

/-- A tick of the clock writes the clock and the notices. -/
theorem State.tickClock_eq (s : State) :
    s.tickClock =
      { s with
        clock := s.tickClock.clock, clockState := s.tickClock.clockState,
        notices := postAll s.notices s.clockNotice } := by
  unfold State.clockNotice
  rcases s.tickClock_cases with ⟨hs, e⟩ | ⟨hs, hl, e⟩ | ⟨hs, hl, e⟩ <;> rw [e]
  · rw [if_neg (by simp [hs])]
    rfl
  · rw [if_pos ⟨hs, hl⟩]
    rfl
  · rw [if_neg fun hc => hl hc.2]
    rfl

theorem State.tickClock_surf (s : State) (n : SurfaceId) : s.tickClock.surf n = s.surf n := by
  rw [State.tickClock_eq]
  rfl

theorem ClockValue.millis_tick {v : ClockValue} (h : v.valid = true) : (v.addMillis 1).millis = v.millis + 1 := by
  obtain ⟨hr, hf⟩ := (ClockValue.valid_iff v).mp h
  exact ClockValue.millis_addMillis hf ((ClockValue.inRange_iff v).mp hr).1 (by omega)

theorem exec_tick {s : State} (hs : s.Released) :
    exec .tick s = .next (surfaceIds.foldl State.tickSurface s.tickClock) := by
  simp only [exec, execTick, hs, Bool.false_eq_true, if_false]

/-- The state after a tick, field by field in the terms of the state before it. -/
theorem State.tick_spec {s t : State} (ht : surfaceIds.foldl State.tickSurface s.tickClock = t) :
    t.clock = s.tickClock.clock ∧ t.clockState = s.tickClock.clockState ∧
      (∀ n : SurfaceId, t.surf n = (s.surf n).ticked) ∧
      s.CountsMoved t (surfaceIds.flatMap fun n => (s.surf n).tickFrees) [] ∧
      t = { s with
            clock := t.clock, clockState := t.clockState, surfaces := t.surfaces, freeCount := t.freeCount,
            slots := t.slots,
            notices := postAll s.notices (s.clockNotice ++ surfaceIds.flatMap fun n => (s.surf n).tickNotice n) } := by
  have honce : surfaceIds.Nodup := by decide
  have hsurf (n : SurfaceId) : t.surf n = (s.surf n).ticked := by
    rw [← ht, State.tickSurfaces_surf _ honce, if_pos (mem_surfaceIds n), State.tickClock_surf]
  have hticks := s.tickClock.ticks_tickSurfaces honce
  simp only [State.tickClock_surf, ht] at hticks
  obtain ⟨honly, hcounts, hnotices⟩ := hticks
  rw [State.OnlyTableAndNotices] at honly
  have hclock : t.clock = s.tickClock.clock := by rw [honly]
  have hstate : t.clockState = s.tickClock.clockState := by rw [honly]
  rw [State.tickClock_eq] at hcounts hnotices honly
  refine ⟨hclock, hstate, hsurf, hcounts, ?_⟩
  rw [postAll_append, ← hnotices, hclock, hstate]
  exact honly

/-- Settles O34: the clock first, which leaves the surfaces as they stand, then each surface once. -/
theorem tickAdvances : Obligations.TickAdvances := by
  intro s hs hv
  obtain ⟨hclock, hstate, hrest⟩ := State.tick_spec (s := s) rfl
  refine ⟨_, exec_tick hs, ?_, ?_, ?_, hrest⟩ <;> rw [hclock, hstate]
  · intro hstop
    rcases s.tickClock_cases with ⟨-, e⟩ | ⟨hrun, -⟩ | ⟨hrun, -⟩
    · rw [e]
      exact ⟨rfl, hstop⟩
    all_goals simp [hstop] at hrun
  · intro hrun hlast
    rcases s.tickClock_cases with ⟨hstop, -⟩ | ⟨-, -, e⟩ | ⟨-, hne, -⟩
    · simp [hrun] at hstop
    · rw [e]
      exact ⟨hlast, rfl⟩
    · exact absurd hlast hne
  · intro hrun hne
    have hvalid := State.tickClock_valid hv
    rcases s.tickClock_cases with ⟨hstop, -⟩ | ⟨-, hlast, -⟩ | ⟨-, -, e⟩
    · simp [hrun] at hstop
    · exact absurd hlast hne
    · rw [e] at hvalid ⊢
      exact ⟨hvalid, ClockValue.millis_tick hv, hrun⟩

end Sys2Proof.Machine
end

section
/-! The expansion of codes into rendered cells (R106 to R113): the digits of a numeric field, and the cells of each
code. -/

namespace Sys2Proof.Machine

/-! ### Decimal digits (R108) -/

/-- The last `k + j` digits are the last `k` of the number without its last `j`, then those. -/
theorem decimalDigits_add (k j v : Nat) :
    decimalDigits (k + j) v = decimalDigits k (v / 10 ^ j) ++ decimalDigits j v := by
  induction j generalizing v with
  | zero => simp [decimalDigits]
  | succ j ih =>
    rw [← Nat.add_assoc, decimalDigits, ih, Nat.div_div_eq_div_mul, ← Nat.pow_succ', List.append_assoc]
    rfl

/-- The last `k` digits of a number do not depend on what stands in front of them. -/
theorem decimalDigits_mod (k v : Nat) : decimalDigits k (v % 10 ^ k) = decimalDigits k v := by
  induction k generalizing v with
  | zero => rfl
  | succ k ih =>
    have hlast : v % 10 ^ (k + 1) % 10 = v % 10 := Nat.mod_mod_of_dvd v ⟨10 ^ k, Nat.pow_succ'⟩
    have hrest : v % 10 ^ (k + 1) / 10 = v / 10 % 10 ^ k := by rw [Nat.pow_succ', Nat.mod_mul_right_div_self]
    rw [decimalDigits, decimalDigits, hlast, hrest, ih]

section
variable (env : RenderInput)

theorem RenderInput.digits_add (k j v : Nat) : env.digits (k + j) v = env.digits k (v / 10 ^ j) ++ env.digits j v := by
  simp only [RenderInput.digits, decimalDigits_add, List.map_append]

theorem RenderInput.digits_mod (k v : Nat) : env.digits k (v % 10 ^ k) = env.digits k v := by
  simp only [RenderInput.digits, decimalDigits_mod]

theorem RenderInput.digits_one (v : Nat) : env.digits 1 v = [.glyph (env.header.digitBase + v % 10)] := rfl

theorem RenderInput.digits_four (v : Nat) : env.digits 4 v = env.digits 2 (v / 100) ++ env.digits 2 v :=
  env.digits_add 2 2 v

theorem RenderInput.digits_eight (v : Nat) : env.digits 8 v = env.digits 4 (v / 10000) ++ env.digits 4 v :=
  env.digits_add 4 4 v

/-! ### The cells of a code (R107 to R112) -/

theorem RenderInput.timeField_some {t : ClockValue} (h : env.time = some t) (k : Nat)
    (draw : ClockValue → List RenderedCell) : env.timeField k draw = draw t := by
  simp only [RenderInput.timeField, h]

theorem RenderInput.timeField_none (h : env.time = none) (k : Nat) (draw : ClockValue → List RenderedCell) :
    env.timeField k draw = List.replicate k .blank := by
  simp only [RenderInput.timeField, h]

theorem RenderInput.expandCode_cell {code : Byte} (h : code.toNat < 128) :
    env.expandCode code = [.glyph code.toNat] := by
  rw [RenderInput.expandCode, if_pos h]

theorem RenderInput.expandCode_unused {code : Byte} (h : 142 ≤ code.toNat) : env.expandCode code = [.blank] := by
  rw [RenderInput.expandCode, if_neg (by omega)]
  split
  case h_15 => rfl
  all_goals omega

theorem RenderInput.expandCode_number :
    env.expandCode 138 = env.digits 4 (env.number.toNat / 10000) ++ env.digits 4 env.number.toNat := by
  rw [← RenderInput.digits_eight]
  exact env.digits_mod 8 _

theorem RenderInput.expandCode_shortNumber : env.expandCode 139 = env.digits 4 env.number.toNat :=
  env.digits_mod 4 _

theorem RenderInput.expandCode_surface :
    env.expandCode 140 = [.glyph (env.header.digitBase + env.surface.val)] := by
  have hone : env.expandCode 140 = env.digits 1 env.surface.val := rfl
  rw [hone, RenderInput.digits_one, Nat.mod_eq_of_lt (by omega)]

/-- The fields that are drawn from the frame time (R109 to R112). -/
theorem RenderInput.expandCode_time {t : ClockValue} (h : env.time = some t) :
    env.expandCode 128 = env.digits 4 t.year ∧ env.expandCode 129 = env.digits 2 t.year ∧
      env.expandCode 130 = env.digits 2 t.month ∧ env.expandCode 131 = env.digits 2 t.day ∧
      env.expandCode 132 = env.digits 2 t.hour ∧ env.expandCode 133 = env.digits 2 (hour12 t.hour) ∧
      env.expandCode 134 = [.glyph (if t.hour < 12 then env.header.amGlyph else env.header.pmGlyph)] ∧
      env.expandCode 135 = env.digits 2 t.minute ∧ env.expandCode 136 = env.digits 2 t.second ∧
      env.expandCode 137 = env.digits 3 t.milli ∧
      env.expandCode 141 = [.glyph (env.header.weekdayBase + t.weekday)] :=
  have drawn := env.timeField_some h
  ⟨drawn 4 _, (drawn 2 _).trans (env.digits_mod 2 _), drawn 2 _, drawn 2 _, drawn 2 _, drawn 2 _, drawn 1 _, drawn 2 _,
    drawn 2 _, drawn 3 _, drawn 1 _⟩

/-- Without a frame time the same fields hold as many BLANK cells (R112). -/
theorem RenderInput.expandCode_noTime (h : env.time = none) :
    env.expandCode 128 = [.blank, .blank, .blank, .blank] ∧ env.expandCode 137 = [.blank, .blank, .blank] ∧
      env.expandCode 134 = [.blank] ∧ env.expandCode 141 = [.blank] ∧
      ∀ code ∈ ([129, 130, 131, 132, 133, 135, 136] : List Byte), env.expandCode code = [.blank, .blank] := by
  have absent := env.timeField_none h
  refine ⟨absent 4 _, absent 3 _, absent 1 _, absent 1 _, fun code hc => ?_⟩
  simp only [List.mem_cons, List.not_mem_nil, or_false] at hc
  rcases hc with rfl | rfl | rfl | rfl | rfl | rfl | rfl <;> exact absent 2 _

theorem RenderInput.digits_hour12 (hour : Nat) :
    env.digits 2 (hour12 hour) =
      if hour = 0 then env.digits 2 12 else if hour ≤ 12 then env.digits 2 hour else env.digits 2 (hour - 12) := by
  unfold hour12
  split
  · rfl
  · split <;> rfl

end

end Sys2Proof.Machine
end

section
/-! How items are laid (R118 to R121, R124 to R130): what an item contributes to a pixel, and what one contribution
makes of a byte of one component and of an RGB565 pixel. -/

namespace Sys2Proof.Machine

/-! ### What an item contributes (R119 to R121, R125) -/

theorem RectItem.covers_iff (b : RectItem) (c r : Nat) :
    b.covers c r = true ↔ b.x ≤ c ∧ c < b.x + b.w ∧ b.y ≤ r ∧ r < b.y + b.h := by
  simp only [RectItem.covers, Bool.and_eq_true, decide_eq_true_eq, and_assoc]

theorem contribution_box (page : GlyphPage) (b : RectItem) (bl : Blend) (cells : List RenderedCell) (c r : Nat) :
    (⟨.box b bl, cells⟩ : DrawnItem).contribution page c r = if b.covers c r then some ⟨b.ink, bl⟩ else none := rfl

/-- What a TEXT item lays by the shade a pixel falls on (R125, R128). -/
def TextItem.lays (t : TextItem) : Shade → Option Contribution
  | .clear => none
  | .ink => some ⟨t.ink, t.blend⟩
  | .edge => some ⟨t.edge, t.blend⟩
  | .shade => some ⟨t.shade, .halfBlend⟩

theorem contribution_text (page : GlyphPage) (t : TextItem) (cells : List RenderedCell) (c r : Nat) :
    (⟨.text t, cells⟩ : DrawnItem).contribution page c r = (textShade page t cells c r).bind t.lays := by
  unfold DrawnItem.contribution
  dsimp only
  cases textShade page t cells c r with
  | none => rfl
  | some sh => cases sh <;> rfl

theorem cellShade_glyph {page : GlyphPage} {cell : Fin 128} {row col : Nat} {sh : Shade}
    (h : (page.cells[cell])[12 * row + col]? = some sh) : cellShade page (.glyph cell.val) row col = sh := by
  have hcell : page.cells[cell.val]? = some page.cells[cell] := Vector.getElem?_eq_getElem cell.isLt
  simp only [cellShade, hcell, h, Option.getD_some]

section
variable {page : GlyphPage} {t : TextItem} {cells : List RenderedCell} {c r : Nat}

/-- Outside its cells a TEXT item covers nothing (R119). -/
theorem textShade_outside
    (h : c < t.x ∨ r < t.y ∨ 20 * t.scaleY ≤ r - t.y ∨ cells.length ≤ (c - t.x) / (12 * t.scaleX + t.spacing)) :
    textShade page t cells c r = none := by
  unfold textShade
  split
  · have hcells : cells[(c - t.x) / (12 * t.scaleX + t.spacing)]? = none := List.getElem?_eq_none (by omega)
    simp only [hcells]
  · rfl

/-- A spacing gap is CLEAR where it is covered (R120). -/
theorem textShade_gap (h : 12 * t.scaleX ≤ (c - t.x) % (12 * t.scaleX + t.spacing)) :
    textShade page t cells c r = none ∨ textShade page t cells c r = some .clear := by
  simp only [textShade, if_pos h]
  split
  · split
    · exact .inl rfl
    · exact .inr rfl
  · exact .inl rfl

/-- A BLANK cell is CLEAR where it is covered (R106, R120). -/
theorem textShade_blank (h : cells[(c - t.x) / (12 * t.scaleX + t.spacing)]? = some .blank) :
    textShade page t cells c r = none ∨ textShade page t cells c r = some .clear := by
  simp only [textShade, h]
  split
  · split <;> exact .inr rfl
  · exact .inl rfl

/-- On a glyph of the page the shade is that of the glyph's row and column (R120). -/
theorem textShade_glyph {cell : Fin 128} {sh : Shade} (hx : t.x ≤ c) (hy : t.y ≤ r) (hrow : r - t.y < 20 * t.scaleY)
    (hcol : (c - t.x) % (12 * t.scaleX + t.spacing) < 12 * t.scaleX)
    (hcell : cells[(c - t.x) / (12 * t.scaleX + t.spacing)]? = some (.glyph cell.val))
    (hsh : (page.cells[cell])[12 * ((r - t.y) / t.scaleY)
      + (c - t.x) % (12 * t.scaleX + t.spacing) / t.scaleX]? = some sh) :
    textShade page t cells c r = some sh := by
  simp only [textShade, if_pos (show t.x ≤ c ∧ t.y ≤ r ∧ r - t.y < 20 * t.scaleY from ⟨hx, hy, hrow⟩), hcell,
    if_neg (Nat.not_le.mpr hcol), cellShade_glyph hsh]

theorem contribution_text_none (h : textShade page t cells c r = none ∨ textShade page t cells c r = some .clear) :
    (⟨.text t, cells⟩ : DrawnItem).contribution page c r = none := by
  rw [contribution_text]
  rcases h with h | h <;> rw [h] <;> rfl

end

/-! ### A byte of one component (R118, R124, R127, R128) -/

/-- The byte at column byte `colByte` is a component of its own: of Y8, of XRGB8888, or a Y byte of YUYV (R118). -/
def SurfaceDef.OneComponent (d : SurfaceDef) (colByte : Nat) : Prop :=
  d.format = .y8 ∨ d.format = .xrgb8888 ∨ (d.format = .yuyv ∧ colByte % 2 = 0)

/-- The component is the X of XRGB8888, which HALF leaves (R128). -/
def SurfaceDef.keepsOnHalf (d : SurfaceDef) (place : Nat) : Bool := decide (d.format = .xrgb8888 ∧ place = 3)

/-- A byte of one component is composed from what the items contribute to its pixel. -/
theorem stampedByte_component {d : SurfaceDef} {page : GlyphPage} {drawn : List DrawnItem} {lanes : List Lane}
    {o i : Nat} (hc : d.OneComponent (o % d.pitch)) (hin : o % d.pitch < d.width * d.format.bpp) :
    stampedByte d page drawn lanes o i =
      composeByte page drawn (o % d.pitch / d.format.bpp) (o / d.pitch)
        (d.keepsOnHalf (d.colourPlace (o % d.pitch))) (d.colourPlace (o % d.pitch)) (laneAt lanes i).data := by
  simp only [stampedByte, if_neg (Nat.not_le.mpr hin), SurfaceDef.colourPlace, SurfaceDef.keepsOnHalf]
  rcases hc with hf | hf | ⟨hf, hz⟩ <;> simp only [hf]
  · rfl
  · have hx : (o % d.pitch % 4 == 3) = decide (o % d.pitch % 4 = 3) := rfl
    simp only [PixelFormat.bpp, hx, true_and]
  · simp only [PixelFormat.bpp, hz, if_true]
    rfl

/-- `after` is what the contribution `k` makes of the byte `before` of the component `place` (R127, R128). -/
def SurfaceDef.LaysByte (d : SurfaceDef) (place : Nat) (k : Contribution) (before after : Byte) : Prop :=
  (k.blend = .opaqueBlend → after = colourByte k.colour place) ∧
    (k.blend = .halfBlend → d.format = .xrgb8888 → place = 3 → after = before) ∧
    (k.blend = .halfBlend → ¬(d.format = .xrgb8888 ∧ place = 3) →
      after.toNat = (before.toNat + (colourByte k.colour place).toNat) / 2)

theorem laysByte_blendByte (d : SurfaceDef) (place : Nat) (k : Contribution) (before : Byte) :
    d.LaysByte place k before (blendByte (d.keepsOnHalf place) place before k) := by
  refine ⟨fun hb => ?_, fun hb hf hx => ?_, fun hb hne => ?_⟩
  · simp only [blendByte, hb]
  · simp [blendByte, hb, SurfaceDef.keepsOnHalf, hf, hx]
  · simp only [blendByte, hb, SurfaceDef.keepsOnHalf, hne, decide_false, Bool.false_eq_true, if_false,
      averageByte_toNat]

/-- Without items a byte of one component passes. -/
theorem stampedByte_component_nil {d : SurfaceDef} {page : GlyphPage} {lanes : List Lane} {o i : Nat}
    (hc : d.OneComponent (o % d.pitch)) (hin : o % d.pitch < d.width * d.format.bpp) :
    stampedByte d page [] lanes o i = (laneAt lanes i).data := by
  rw [stampedByte_component hc hin]
  rfl

/-- One more item on top of a byte of one component (R124). -/
theorem stampedByte_component_snoc {d : SurfaceDef} {page : GlyphPage} {below : List DrawnItem} {it : DrawnItem}
    {lanes : List Lane} {o i : Nat} (hc : d.OneComponent (o % d.pitch))
    (hin : o % d.pitch < d.width * d.format.bpp)
    (hr : ∀ x ∈ below ++ [it], x.redaction (o % d.pitch / d.format.bpp) (o / d.pitch) = none) :
    (it.contribution page (o % d.pitch / d.format.bpp) (o / d.pitch) = none →
        stampedByte d page (below ++ [it]) lanes o i = stampedByte d page below lanes o i) ∧
      ∀ k, it.contribution page (o % d.pitch / d.format.bpp) (o / d.pitch) = some k →
        d.LaysByte (d.colourPlace (o % d.pitch)) k (stampedByte d page below lanes o i)
          (stampedByte d page (below ++ [it]) lanes o i) := by
  rw [stampedByte_component hc hin, stampedByte_component hc hin, composeByte_snoc _ _ _ hr]
  refine ⟨fun hk => ?_, fun k hk => ?_⟩ <;> rw [hk]
  exact laysByte_blendByte d _ k _

/-- A single item over a byte of one component: the byte written is what lies below it. -/
theorem stampedByte_component_single {d : SurfaceDef} {page : GlyphPage} {it : DrawnItem} {lanes : List Lane}
    {o i : Nat} (hc : d.OneComponent (o % d.pitch)) (hin : o % d.pitch < d.width * d.format.bpp)
    (hr : it.redaction (o % d.pitch / d.format.bpp) (o / d.pitch) = none) :
    (it.contribution page (o % d.pitch / d.format.bpp) (o / d.pitch) = none →
        stampedByte d page [it] lanes o i = (laneAt lanes i).data) ∧
      ∀ k, it.contribution page (o % d.pitch / d.format.bpp) (o / d.pitch) = some k →
        d.LaysByte (d.colourPlace (o % d.pitch)) k (laneAt lanes i).data (stampedByte d page [it] lanes o i) := by
  rw [← stampedByte_component_nil (page := page) hc hin]
  exact stampedByte_component_snoc (below := []) hc hin (by simpa using hr)

/-! ### A pixel of RGB565 (R118, R124, R128) -/

section
variable {d : SurfaceDef} {page : GlyphPage} {lanes : List Lane} {o i : Nat} (hf : d.format = .rgb565)
  (hin : o % d.pitch < d.width * 2)
include hf hin

theorem stampedByte_low565 (drawn : List DrawnItem) (hz : o % d.pitch % 2 = 0) :
    stampedByte d page drawn lanes o i =
      (compose565 page drawn (o % d.pitch / 2) (o / d.pitch) (!(laneAt lanes (i + 1)).enabled)
        ((laneAt lanes (i + 1)).data ++ (laneAt lanes i).data)).extractLsb' 0 8 := by
  simp only [stampedByte, hf, PixelFormat.bpp, if_neg (Nat.not_le.mpr hin), hz, if_true]

theorem stampedByte_high565 (drawn : List DrawnItem) (hz : o % d.pitch % 2 = 1) {low : Lane}
    (hlow : (if i = 0 then ⟨0, false⟩ else laneAt lanes (i - 1)) = low) :
    stampedByte d page drawn lanes o i =
      (compose565 page drawn (o % d.pitch / 2) (o / d.pitch) (!low.enabled)
        ((laneAt lanes i).data ++ low.data)).extractLsb' 8 8 := by
  simp only [stampedByte, hf, PixelFormat.bpp, if_neg (Nat.not_le.mpr hin), hz, Nat.one_ne_zero, if_false, hlow]

end

/-- A value of two bytes, put together again from them. -/
theorem append_of_bytes (v : BitVec 16) : (v.extractLsb' 8 8 ++ v.extractLsb' 0 8 : BitVec 16) = v := by
  have hwhole : v.extractLsb' 8 8 ++ v.extractLsb' 0 8 = v.extractLsb' 0 16 :=
    BitVec.extractLsb'_append_extractLsb'_eq_extractLsb' rfl
  rw [hwhole, BitVec.extractLsb'_eq_self]

/-- Where both bytes of an RGB565 pixel are enabled, they are the bytes of the composed pixel (R118, R130). -/
theorem stampedPixel_565 {d : SurfaceDef} (page : GlyphPage) (drawn : List DrawnItem) {lanes : List Lane} {o i : Nat}
    (hf : d.format = .rgb565) (hp : d.width * 2 ≤ d.pitch) (hin : o % d.pitch < d.width * 2) (hz : o % d.pitch % 2 = 0)
    (hlow : (laneAt lanes i).enabled = true) (hhigh : (laneAt lanes (i + 1)).enabled = true) :
    (stampedByte d page drawn lanes (o + 1) (i + 1) ++ stampedByte d page drawn lanes o i : BitVec 16) =
      compose565 page drawn (o % d.pitch / 2) (o / d.pitch) false
        ((laneAt lanes (i + 1)).data ++ (laneAt lanes i).data) := by
  have hfit : o % d.pitch + 1 < d.pitch := by omega
  have hmod : (o + 1) % d.pitch = o % d.pitch + 1 := by
    rw [Nat.add_mod, Nat.mod_eq_of_lt (show 1 < d.pitch by omega), Nat.mod_eq_of_lt hfit]
  have hdiv : (o + 1) / d.pitch = o / d.pitch := Nat.succ_div_of_not_dvd fun hd => by
    have := Nat.mod_eq_zero_of_dvd hd
    omega
  have hpixel : (o % d.pitch + 1) / 2 = o % d.pitch / 2 := by omega
  rw [stampedByte_high565 (i := i + 1) hf (by omega) drawn (by omega) rfl, stampedByte_low565 hf hin drawn hz, hmod,
    hdiv, hpixel]
  simp only [Nat.add_eq_zero_iff, Nat.one_ne_zero, and_false, if_false, Nat.add_sub_cancel, hlow, hhigh, Bool.not_true,
    append_of_bytes]

theorem contributionsAt_none {page : GlyphPage} {drawn : List DrawnItem} {c r : Nat}
    (h : ∀ x ∈ drawn, x.contribution page c r = none) : contributionsAt page drawn c r = [] :=
  List.filterMap_eq_nil_iff.mpr h

/-- The topmost contribution is that of the last item that contributes (R124). -/
theorem contributionsAt_top {page : GlyphPage} {below above : List DrawnItem} {it : DrawnItem} {c r : Nat}
    {k : Contribution} (hk : it.contribution page c r = some k) (h : ∀ x ∈ above, x.contribution page c r = none) :
    (contributionsAt page (below ++ it :: above) c r).getLast? = some k :=
  getLast?_filterMap (f := fun x : DrawnItem => x.contribution page c r) hk h

/-- With every blend taken as OPAQUE a byte of the pixel is that of the topmost contribution's colour, or passes
(R130). -/
theorem compose565_opaque_byte {page : GlyphPage} {drawn : List DrawnItem} {c r : Nat} (written : BitVec 16)
    (h : ∀ x ∈ drawn, x.redaction c r = none) {place : Nat} (hp : place < 2) :
    (compose565 page drawn c r true written).extractLsb' (8 * place) 8 =
      ((contributionsAt page drawn c r).getLast?.map fun k => colourByte k.colour place).getD
        (written.extractLsb' (8 * place) 8) := by
  rw [compose565_plain true written h, foldl_blend565_opaque]
  cases (contributionsAt page drawn c r).getLast? with
  | none => rfl
  | some k => exact colour565_byte k.colour hp

/-- An RGB565 byte whose partner is not enabled takes that of the topmost contribution's colour, or passes (R130). -/
theorem stampedByte_alone565 {d : SurfaceDef} {page : GlyphPage} {drawn : List DrawnItem} {lanes : List Lane}
    {o i : Nat} (hf : d.format = .rgb565) (hin : o % d.pitch < d.width * 2)
    (halone : if o % d.pitch % 2 = 0 then (laneAt lanes (i + 1)).enabled = false
      else i = 0 ∨ (laneAt lanes (i - 1)).enabled = false)
    (hr : ∀ x ∈ drawn, x.redaction (o % d.pitch / 2) (o / d.pitch) = none) :
    stampedByte d page drawn lanes o i =
      ((contributionsAt page drawn (o % d.pitch / 2) (o / d.pitch)).getLast?.map fun k =>
        colourByte k.colour (o % d.pitch % 2)).getD (laneAt lanes i).data := by
  rcases Nat.mod_two_eq_zero_or_one (o % d.pitch) with hz | hz
  · rw [if_pos hz] at halone
    rw [stampedByte_low565 hf hin drawn hz, halone, hz]
    refine (compose565_opaque_byte _ hr (place := 0) (by decide)).trans (congrArg _ ?_)
    exact BitVec.extractLsb'_append_eq_right
  · rw [if_neg (by omega)] at halone
    obtain ⟨low, hlow⟩ : ∃ low : Lane, (if i = 0 then ⟨0, false⟩ else laneAt lanes (i - 1)) = low := ⟨_, rfl⟩
    have hoff : low.enabled = false := by
      rw [← hlow]
      split
      next => rfl
      next hi => exact halone.resolve_left hi
    rw [stampedByte_high565 hf hin drawn hz hlow, hoff, hz]
    refine (compose565_opaque_byte _ hr (place := 1) (by decide)).trans (congrArg _ ?_)
    exact BitVec.extractLsb'_append_eq_left

end Sys2Proof.Machine
end

section
/-! The statement on how items are laid, clause by clause. -/

namespace Sys2Proof.Machine

theorem coversByte_component {d : SurfaceDef} (hf : d.format = .y8 ∨ d.format = .xrgb8888) (b : RectItem)
    (colByte r : Nat) : b.coversByte d colByte r = b.covers (colByte / d.format.bpp) r := by
  rcases hf with hf | hf <;> simp only [RectItem.coversByte, hf]

/-- One BOX over a byte of Y8 or XRGB8888 (R121, R127, R128). -/
theorem stampedByte_box {d : SurfaceDef} {page : GlyphPage} {b : RectItem} {bl : Blend} {lanes : List Lane} {o i : Nat}
    (hf : d.format = .y8 ∨ d.format = .xrgb8888) (hin : o % d.pitch < d.width * d.format.bpp) :
    (b.coversByte d (o % d.pitch) (o / d.pitch) = false →
        stampedByte d page [⟨.box b bl, []⟩] lanes o i = (laneAt lanes i).data) ∧
      (b.coversByte d (o % d.pitch) (o / d.pitch) = true →
        d.LaysByte (d.colourPlace (o % d.pitch)) ⟨b.ink, bl⟩ (laneAt lanes i).data
          (stampedByte d page [⟨.box b bl, []⟩] lanes o i)) := by
  obtain ⟨hnone, hsome⟩ := stampedByte_component_single (page := page) (it := ⟨.box b bl, []⟩) (lanes := lanes) (i := i)
    (hf.imp_right .inl) hin rfl
  rw [coversByte_component hf]
  refine ⟨fun h => hnone ?_, fun h => hsome ⟨b.ink, bl⟩ ?_⟩ <;> rw [contribution_box, h] <;> rfl

/-- One TEXT item over a byte of Y8, by the shade its pixel falls on (R120, R125). -/
theorem stampedByte_text {d : SurfaceDef} {page : GlyphPage} {t : TextItem} {cells : List RenderedCell}
    {lanes : List Lane} {o i : Nat} {sh : Shade} (hf : d.format = .y8) (hin : o % d.pitch < d.width)
    (h : textShade page t cells (o % d.pitch) (o / d.pitch) = some sh) :
    (t.lays sh = none → stampedByte d page [⟨.text t, cells⟩] lanes o i = (laneAt lanes i).data) ∧
      ∀ k, t.lays sh = some k →
        (k.blend = .opaqueBlend → stampedByte d page [⟨.text t, cells⟩] lanes o i = colourByte k.colour 0) ∧
          (k.blend = .halfBlend →
            (stampedByte d page [⟨.text t, cells⟩] lanes o i).toNat
              = ((laneAt lanes i).data.toNat + (colourByte k.colour 0).toNat) / 2) := by
  have hbpp : d.format.bpp = 1 := by rw [hf]; rfl
  have hplace : d.colourPlace (o % d.pitch) = 0 := by simp only [SurfaceDef.colourPlace, hf]
  have hlaid := contribution_text page t cells (o % d.pitch) (o / d.pitch)
  rw [h, Option.bind_some] at hlaid
  have hone := stampedByte_component_single (page := page) (it := ⟨.text t, cells⟩) (lanes := lanes) (i := i) (.inl hf)
    (by rwa [hbpp, Nat.mul_one]) rfl
  rw [hbpp, Nat.div_one, hplace, hlaid] at hone
  obtain ⟨hnone, hsome⟩ := hone
  refine ⟨hnone, fun k hk => ?_⟩
  obtain ⟨hopaque, -, hhalf⟩ := hsome k hk
  exact ⟨hopaque, fun hb => hhalf hb (by simp [hf])⟩

/-- The cell, row and column that a pixel of a TEXT item falls on, from its offset in the item (R119, R120). -/
theorem textShade_at {page : GlyphPage} {t : TextItem} {cells : List RenderedCell} {c r j row col : Nat}
    {cell : Fin 128} {sh : Shade} (hrow : row < 20 * t.scaleY) (hcol : col < 12 * t.scaleX)
    (hc : c = t.x + j * (12 * t.scaleX + t.spacing) + col) (hr : r = t.y + row)
    (hcell : cells[j]? = some (.glyph cell.val))
    (hsh : (page.cells[cell])[12 * (row / t.scaleY) + col / t.scaleX]? = some sh) :
    textShade page t cells c r = some sh := by
  have hdown : r - t.y = row := by omega
  have hacross : c - t.x = j * (12 * t.scaleX + t.spacing) + col := by omega
  have hmod : (c - t.x) % (12 * t.scaleX + t.spacing) = col := by
    rw [hacross, Nat.mul_comm, Nat.mul_add_mod, Nat.mod_eq_of_lt (by omega)]
  have hdiv : (c - t.x) / (12 * t.scaleX + t.spacing) = j := by
    rw [hacross, Nat.mul_comm, Nat.mul_add_div (by omega), Nat.div_eq_of_lt (by omega), Nat.add_zero]
  exact textShade_glyph (by omega) (by omega) (hdown ▸ hrow) (hmod ▸ hcol) (by rw [hdiv, hcell])
    (by rw [hdown, hmod, hsh])

/-- HALF averages each field of an RGB565 pixel: red, green and blue, by their places (R128). -/
theorem average565_field {low size : Nat} (h : (low, size) = (11, 5) ∨ (low, size) = (5, 6) ∨ (low, size) = (0, 5))
    (old new : BitVec 16) :
    ((average565 old new).extractLsb' low size).toNat
      = ((old.extractLsb' low size).toNat + (new.extractLsb' low size).toNat) / 2 := by
  obtain ⟨hred, hgreen, hblue⟩ := average565_fields old new
  rcases h with h | h | h <;> cases h
  · exact hred
  · exact hgreen
  · exact hblue

/-- One more item on top of an RGB565 pixel of two enabled bytes (R124, R128). -/
theorem compose565_lays {page : GlyphPage} {below : List DrawnItem} {it : DrawnItem} {c r : Nat} (written : BitVec 16)
    (hr : ∀ x ∈ below ++ [it], x.redaction c r = none) :
    (it.contribution page c r = none →
        compose565 page (below ++ [it]) c r false written = compose565 page below c r false written) ∧
      ∀ k, it.contribution page c r = some k →
        (k.blend = .opaqueBlend → compose565 page (below ++ [it]) c r false written = colour565 k.colour) ∧
          (k.blend = .halfBlend →
            compose565 page (below ++ [it]) c r false written
              = average565 (compose565 page below c r false written) (colour565 k.colour)) := by
  rw [compose565_snoc false written hr]
  refine ⟨fun hk => ?_, fun k hk => ⟨fun hb => ?_, fun hb => ?_⟩⟩ <;> rw [hk]
  · simp only [blend565, hb]
  · simp only [blend565, hb, Bool.false_eq_true, if_false]

/-- Settles O44: each clause from what the items contribute to the byte's pixel, one item on top at a time. -/
theorem itemsAreLaid : Obligations.ItemsAreLaid := by
  refine ⟨?_, ?_, ?_, ?_, ?_, ?_, ?_, ?_⟩
  · intro d page b bl lanes o i hf hin
    exact stampedByte_box hf hin
  · intro d page t cells lanes o i j row col cell sh hf hin _ _ hrow hcol hc hr hcell hsh written after
    obtain ⟨hnone, hsome⟩ := stampedByte_text (lanes := lanes) (i := i) hf hin
      (textShade_at hrow hcol hc hr hcell hsh)
    refine ⟨?_, ?_, ?_, ?_, ?_, ?_⟩ <;> rintro rfl
    · exact hnone rfl
    · exact (hsome ⟨t.ink, t.blend⟩ rfl).1
    · exact (hsome ⟨t.ink, t.blend⟩ rfl).2
    · exact (hsome ⟨t.edge, t.blend⟩ rfl).1
    · exact (hsome ⟨t.edge, t.blend⟩ rfl).2
    · exact (hsome ⟨t.shade, .halfBlend⟩ rfl).2 rfl
  · intro page cells c r
    refine ⟨fun b bl => ?_, fun b => rfl, fun t _ _ => ⟨fun h => ?_, fun h => ?_, fun h => ?_, ?_⟩⟩
    · rw [← RectItem.covers_iff, contribution_box]
      exact ⟨fun h => if_pos h, fun h => if_neg h⟩
    · exact contribution_text_none (.inl (textShade_outside h))
    · exact contribution_text_none (textShade_gap h)
    · exact contribution_text_none (textShade_blank h)
    · intro cell sh hx hy hrow hcol hcell hsh
      rw [contribution_text, textShade_glyph hx hy hrow hcol hcell hsh]
      cases sh <;> rfl
  · intro d page below it lanes o i hc hin c r place before after
    exact ⟨stampedByte_component_nil hc hin, fun hr => stampedByte_component_snoc hc hin hr⟩
  · intro d page below it lanes o i hf hp hin hz hlow hhigh c r pixel field
    have hpixel (drawn : List DrawnItem) : pixel drawn = compose565 page drawn c r false _ :=
      stampedPixel_565 page drawn hf hp hin hz hlow hhigh
    refine ⟨hpixel [], fun hr => ?_⟩
    obtain ⟨hnone, hsome⟩ := compose565_lays (page := page) ((laneAt lanes (i + 1)).data ++ (laneAt lanes i).data) hr
    rw [hpixel, hpixel]
    refine ⟨hnone, fun k hk => ⟨(hsome k hk).1, fun hb low size hfield => ?_⟩⟩
    rw [(hsome k hk).2 hb]
    exact average565_field hfield _ _
  · intro d page drawn lanes o i hf hin halone c r hr
    rw [stampedByte_alone565 hf hin halone hr]
    refine ⟨fun hnone => ?_, fun below above it k hd hk habove => ?_⟩
    · rw [contributionsAt_none hnone]
      rfl
    · rw [hd, contributionsAt_top hk habove]
      rfl
  · intro s n d o i lanes l p hp hl he env drawn
    have hdrawn : drawn = drawnItems s n (s.page p) (s.surf n).active := rfl
    simp only [stampPortion, hp, hdrawn]
    rw [stampFrom_getElem?, hl, Nat.zero_add, Option.map_some, he]
    rfl
  · intro env codes
    refine ⟨rfl, fun code => ⟨env.expandCode_cell, env.expandCode_unused, ?_, ?_, env.expandCode_surface,
      fun t ht => ?_, env.expandCode_noTime⟩⟩
    · rw [env.expandCode_number, env.digits_four, env.digits_four]
      rfl
    · rw [env.expandCode_shortNumber, env.digits_four]
      rfl
    · obtain ⟨h1, h2, h3, h4, h5, h6, h7, h8, h9, h10, h11⟩ := env.expandCode_time ht
      rw [env.digits_four] at h1
      rw [env.digits_hour12] at h6
      exact ⟨h1, h2, h3, h4, h5, h6, h7, h8, h9, h10.trans (env.digits_add 1 2 t.milli), h11⟩

end Sys2Proof.Machine
end

section
/-! The chroma of a YUYV pair (R132): it is decided by the topmost contribution to the left pixel, against the written
chroma. -/

namespace Sys2Proof.Machine

theorem pairRedactionAt_none {drawn : List DrawnItem} {left right r : Nat}
    (h : ∀ x ∈ drawn, x.redaction left r = none ∧ x.redaction right r = none) :
    pairRedactionAt drawn left right r = none := by
  have hnone : drawn.filterMap (fun x => (x.redaction left r).or (x.redaction right r)) = [] :=
    List.filterMap_eq_nil_iff.mpr fun x hx => Option.or_eq_none_iff.mpr (h x hx)
  rw [pairRedactionAt, hnone]
  rfl

/-- A pair that no REDACT item covers: the topmost contribution to the left pixel is laid on the written chroma. -/
theorem composeChroma_plain {page : GlyphPage} {drawn : List DrawnItem} {left r : Nat} (place : Nat) (written : Byte)
    (h : ∀ x ∈ drawn, x.redaction left r = none ∧ x.redaction (left + 1) r = none) :
    composeChroma page drawn left r place written =
      ((contributionsAt page drawn left r).getLast?.map fun k => blendByte false place written k).getD written := by
  rw [composeChroma, pairRedactionAt_none h]
  cases (contributionsAt page drawn left r).getLast? <;> rfl

/-- The U and V bytes are the odd column bytes of YUYV; those of a pair are composed at its left pixel (R118, R131). -/
theorem stampedByte_chroma {d : SurfaceDef} {page : GlyphPage} {drawn : List DrawnItem} {lanes : List Lane} {o i : Nat}
    (hf : d.format = .yuyv) (hin : o % d.pitch < d.width * 2) (hodd : o % d.pitch % 2 = 1) :
    stampedByte d page drawn lanes o i =
      composeChroma page drawn (2 * (o % d.pitch / 4)) (o / d.pitch) (d.colourPlace (o % d.pitch))
        (laneAt lanes i).data := by
  have hpair : o % d.pitch / 2 / 2 = o % d.pitch / 4 := Nat.div_div_eq_div_mul ..
  have hplace : o % d.pitch / 2 % 2 = 0 ↔ o % d.pitch % 4 = 1 := by omega
  simp only [stampedByte, SurfaceDef.colourPlace, hf, PixelFormat.bpp, if_neg (Nat.not_le.mpr hin), hodd,
    Nat.one_ne_zero, if_false, hpair, hplace]

/-- Settles O45: without a REDACT item the pair has at most one contribution to lay, the topmost of its left pixel. -/
theorem chromaFollowsLeftPixel : Obligations.ChromaFollowsLeftPixel := by
  intro d page drawn lanes o i hf hin hodd left row written place hr
  have hplace : d.colourPlace (o % d.pitch) = place := by
    simp only [SurfaceDef.colourPlace, hf, hodd, Nat.one_ne_zero, if_false, place]
  have hkeeps : d.keepsOnHalf place = false := by simp [SurfaceDef.keepsOnHalf, hf]
  rw [stampedByte_chroma hf hin hodd, composeChroma_plain _ _ hr, hplace]
  refine ⟨fun hnone => ?_, fun below above it k hd hk habove => ?_⟩
  · rw [contributionsAt_none hnone]
    rfl
  · rw [hd, contributionsAt_top hk habove, Option.map_some, Option.getD_some, ← hkeeps]
    obtain ⟨hopaque, -, hhalf⟩ := laysByte_blendByte d place k written
    exact ⟨hopaque, fun hb => hhalf hb (by simp [hf])⟩

end Sys2Proof.Machine
end

section
/-! What stamping never changes (R115 to R117): the bytes that pass through the handling of one portion, and where the
bytes of a portion stand in the write. -/

namespace Sys2Proof.Machine

/-! ### The definitions of the surfaces stand while a write is taken (R25) -/

/-- Every surface has in `t` the definition it has in `s`. -/
def State.SameDefns (s t : State) : Prop := ∀ n : SurfaceId, (t.surf n).defn = (s.surf n).defn

theorem State.SameDefns.of_tableAfter {s t : State} {n : SurfaceId} {r : Surface} (h : s.TableAfter t n r)
    (hr : r.defn = (s.surf n).defn) : s.SameDefns t := by
  intro m
  by_cases hm : m = n
  · rw [hm, h.1, hr]
  · rw [h.2 m hm]

theorem State.sameDefns_startFrame {s : State} {n : SurfaceId}
    (h : (s.surf n).state = .live ∨ (s.surf n).state = .retiring) (d : SurfaceDef) (k : BufferId) (hi : Nat) :
    s.SameDefns (s.startFrame n d k hi) := by
  rcases h with hl | hr
  · by_cases hp : (s.surf n).commitPending = true
    · exact .of_tableAfter (State.startFrame_pending hl hp d k hi).1 rfl
    · exact .of_tableAfter (State.startFrame_notPending hl hp d k hi).1 rfl
  · exact .of_tableAfter (State.startFrame_retires hr d k hi).1 rfl

theorem State.sameDefns_handlePortion (s : State) (p : Portion) : s.SameDefns (s.handlePortion p).1 := by
  cases ht : s.trackedOn p with
  | none => rw [State.handlePortion_untracked ht]; exact fun _ => rfl
  | some out =>
    obtain ⟨⟨n, k⟩, d⟩ := out
    have htracks := State.tracks_of_trackedOn ht
    have ⟨_, _, hstate, _⟩ := htracks
    by_cases hst : (s.surf n).frame.Starts d k (p.lowRow d k)
    · rw [State.handlePortion_starts htracks hst]
      exact State.sameDefns_startFrame hstate d k _
    · rw [State.handlePortion_continues htracks hst]
      exact .of_tableAfter (s.continueFrame_tableAfter n _) rfl

theorem State.sameDefns_handlePortions (s : State) (ps : List Portion) : s.SameDefns (s.handlePortions ps).1 :=
  State.handlePortions_keeps (P := s.SameDefns) (fun u p hu n => (u.sameDefns_handlePortion p n).trans (hu n)) s ps
    fun _ => rfl

/-! ### The bytes that pass through one portion (R115, R116, R117) -/

theorem State.handlePortion_bypass (s : State) (p : Portion) : (s.handlePortion p).1.bypass = s.bypass :=
  (s.onlyTableAndNotices_handlePortion p).bypass

/-- The bytes of a portion pass, or the portion is tracked, bypass is off, and they are stamped (R115). -/
theorem State.handlePortion_bytes (s : State) (p : Portion) :
    (s.handlePortion p).2 = p.lanes ∨
      ∃ ref d, s.trackedOn p = some (ref, d) ∧ s.bypass = false ∧
        (s.handlePortion p).2 =
          stampPortion (s.handlePortion p).1 ref.surface d (p.offset d ref.buffer) p.lanes := by
  cases ht : s.trackedOn p with
  | none => exact .inl (by rw [State.handlePortion_untracked ht])
  | some out =>
    obtain ⟨ref, d⟩ := out
    have hout := State.handlePortion_tracked (State.tracks_of_trackedOn ht)
    cases hr : ((s.handlePortion p).1.surf ref.surface).drawing with
    | false =>
      rw [hout] at hr ⊢
      exact .inl (State.stampAfter_notDrawing hr p ref.buffer d)
    | true =>
      cases hb : s.bypass with
      | false => exact .inr ⟨ref, d, rfl, rfl, State.handlePortion_stamped ht hr (s.handlePortion_bypass p ▸ hb)⟩
      | true =>
        have hbytes := State.stampAfter_drawing hr p ref.buffer d
        rw [State.handlePortion_bypass, hb, if_pos rfl, hout] at hbytes
        rw [hout]
        exact .inl hbytes

theorem State.handlePortion_lanes_of_bypass {s : State} (h : s.bypass = true) (p : Portion) :
    (s.handlePortion p).2 = p.lanes := by
  rcases s.handlePortion_bytes p with e | ⟨_, _, -, hb, -⟩
  · exact e
  · rw [h] at hb; cases hb

theorem State.handlePortion_enabled (s : State) (p : Portion) :
    (s.handlePortion p).2.map Lane.enabled = p.lanes.map Lane.enabled := by
  rcases s.handlePortion_bytes p with e | ⟨_, _, -, -, e⟩ <;> rw [e]
  exact stampPortion_enabled ..

theorem stampedByte_pad {d : SurfaceDef} {o : Nat} (h : d.width * d.format.bpp ≤ o % d.pitch) (page : GlyphPage)
    (drawn : List DrawnItem) (lanes : List Lane) (i : Nat) :
    stampedByte d page drawn lanes o i = (laneAt lanes i).data := by
  rw [stampedByte, if_pos h]

/-- A disabled byte and a pad byte pass through the stamping of a portion (R116). -/
theorem stampPortion_passes {s : State} {n : SurfaceId} {d : SurfaceDef} {o i : Nat} {lanes : List Lane} {l : Lane}
    (hl : lanes[i]? = some l) (h : l.enabled = false ∨ d.width * d.format.bpp ≤ (o + i) % d.pitch) :
    (stampPortion s n d o lanes)[i]? = some l := by
  unfold stampPortion
  split
  · exact hl
  · rw [stampFrom_getElem?, hl, Nat.zero_add, Option.map_some]
    rcases h with he | hpad
    · rw [if_neg (by simp [he])]
    · have hdata : (laneAt lanes i).data = l.data := by simp [laneAt, hl]
      rw [stampedByte_pad hpad, hdata, ite_self]

/-- The byte `l` at place `i` of the portion is one that stamping passes in the state `s`: it is disabled, its portion
lies on no buffer, or it is a pad byte (R115, R116). -/
def Portion.PassesAt (s : State) (p : Portion) (i : Nat) (l : Lane) : Prop :=
  l.enabled = false ∨ p.target = none ∨
    ∃ ref d, p.target = some ref ∧ (s.surf ref.surface).defn = some d ∧
      d.width * d.format.bpp ≤ (p.offset d ref.buffer + i) % d.pitch

theorem Portion.PassesAt.of_sameDefns {s t : State} {p : Portion} {i : Nat} {l : Lane} (h : p.PassesAt s i l)
    (hd : s.SameDefns t) : p.PassesAt t i l := by
  rcases h with h | h | ⟨ref, d, ht, hdef, hpad⟩
  · exact .inl h
  · exact .inr (.inl h)
  · exact .inr (.inr ⟨ref, d, ht, (hd ref.surface).trans hdef, hpad⟩)

theorem State.handlePortion_passes {s : State} {p : Portion} {i : Nat} {l : Lane} (hl : p.lanes[i]? = some l)
    (h : p.PassesAt s i l) : (s.handlePortion p).2[i]? = some l := by
  rcases s.handlePortion_bytes p with e | ⟨ref, d, htracked, -, e⟩ <;> rw [e]
  · exact hl
  · obtain ⟨htarget, hdef, -⟩ := State.tracks_of_trackedOn htracked
    refine stampPortion_passes hl ?_
    rcases h with he | hnone | ⟨ref', d', htarget', hdef', hpad⟩
    · exact .inl he
    · rw [htarget] at hnone; cases hnone
    · rw [htarget] at htarget'
      cases htarget'
      rw [hdef] at hdef'
      cases hdef'
      exact .inr hpad

/-! ### The bytes of a portion in the write (R8, R9) -/

/-- Whatever of the bytes the handling of each portion leaves, the taking of a write leaves. -/
theorem State.handlePortions_map {β : Type} {f : Lane → β} {P : State → Prop}
    (hkeep : ∀ s p, P s → P (s.handlePortion p).1)
    (hpass : ∀ s p, P s → (s.handlePortion p).2.map f = p.lanes.map f) {s : State} (h : P s) (ps : List Portion) :
    (s.handlePortions ps).2.lanes.map f = (ps.flatMap Portion.lanes).map f := by
  induction ps generalizing s with
  | nil => rfl
  | cons p ps ih =>
    rw [State.handlePortions, List.map_append, hpass s p h, ih (hkeep s p h), List.flatMap_cons, List.map_append]

/-- The place of a byte in the write, behind the bytes of the portions before its own. -/
theorem State.handlePortions_getElem? (s : State) (before after : List Portion) {p : Portion} {j : Nat}
    (hj : j < p.lanes.length) :
    (s.handlePortions (before ++ p :: after)).2.lanes[(before.flatMap Portion.lanes).length + j]? =
      ((s.handlePortions before).1.handlePortion p).2[j]? := by
  rw [State.handlePortions_append, State.handlePortions, ← s.handlePortions_length,
    List.getElem?_append_right (Nat.le_add_right ..), Nat.add_sub_cancel_left,
    List.getElem?_append_left (by rwa [State.handlePortion_length])]

/-- Each byte of a run of portions stands at a place of one of them. -/
theorem exists_portion_of_getElem? {ps : List Portion} {i : Nat} {l : Lane}
    (h : (ps.flatMap Portion.lanes)[i]? = some l) :
    ∃ before p after j, ps = before ++ p :: after ∧ i = (before.flatMap Portion.lanes).length + j ∧
      p.lanes[j]? = some l := by
  induction ps generalizing i with
  | nil => cases h
  | cons p ps ih =>
    rw [List.flatMap_cons] at h
    by_cases hi : i < p.lanes.length
    · rw [List.getElem?_append_left hi] at h
      exact ⟨[], p, ps, i, rfl, (Nat.zero_add i).symm, h⟩
    · have hle : p.lanes.length ≤ i := Nat.le_of_not_lt hi
      rw [List.getElem?_append_right hle] at h
      obtain ⟨before, q, after, j, rfl, hij, hl⟩ := ih h
      refine ⟨p :: before, q, after, j, rfl, ?_, hl⟩
      rw [List.flatMap_cons, List.length_append]
      omega

/-! ### The taking of a write as a whole -/

theorem State.classifyWrite_enabled (s : State) (w : WriteRequest) :
    (s.classifyWrite w).2.lanes.map Lane.enabled = w.lanes.map Lane.enabled := by
  have h := State.handlePortions_map (P := fun _ => True) (fun _ _ _ => trivial)
    (fun u p _ => u.handlePortion_enabled p) (s := s) trivial (s.portions w.addr.toNat w.lanes)
  rwa [State.portions_lanes] at h

theorem State.classifyWrite_lanes_of_bypass {s : State} (hb : s.bypass = true) (w : WriteRequest) :
    (s.classifyWrite w).2.lanes = w.lanes := by
  have h := State.handlePortions_map (f := id) (P := fun u => u.bypass = true)
    (fun u p hu => (u.handlePortion_bypass p).trans hu)
    (fun _ p hu => congrArg (List.map id) (State.handlePortion_lanes_of_bypass hu p)) hb
    (s.portions w.addr.toNat w.lanes)
  rwa [List.map_id, List.map_id, State.portions_lanes] at h

/-- A byte that its portion passes, against the definitions before the write, is in the write as it came. -/
theorem State.classifyWrite_passes {s : State} {w : WriteRequest} {i : Nat} {l : Lane} (hl : w.lanes[i]? = some l)
    (h : ∀ (p : Portion) (j : Nat), p.Located s → j < p.lanes.length → p.start + j = w.addr.toNat + i →
      p.PassesAt s j l) :
    (s.classifyWrite w).2.lanes[i]? = some l := by
  rw [← s.portions_lanes w.addr.toNat w.lanes] at hl
  obtain ⟨before, p, after, j, hcut, rfl, hlane⟩ := exists_portion_of_getElem? hl
  have hj : j < p.lanes.length := (List.getElem?_eq_some_iff.mp hlane).1
  have hlocated : p.Located s := s.portions_located w.addr.toNat w.lanes p (by rw [hcut]; simp)
  have hplace : p.start + j = w.addr.toNat + ((before.flatMap Portion.lanes).length + j) := by
    rw [State.portions_start hcut, Nat.add_assoc]
  rw [State.classifyWrite, hcut, State.handlePortions_getElem? s before after hj]
  exact State.handlePortion_passes hlane ((h p j hlocated hj hplace).of_sameDefns (s.sameDefns_handlePortions before))

/-- A write on no buffer is one portion at most, which is not tracked. -/
theorem State.classifyWrite_off {s : State} {w : WriteRequest}
    (h : ∀ i : Nat, i < w.lanes.length → s.locate (w.addr.toNat + i) = none) :
    s.classifyWrite w = (s, ⟨w.lanes, none⟩) := by
  by_cases hne : w.lanes = []
  · simp only [State.classifyWrite, hne, State.portions, State.handlePortions]
  · have hoff : s.trackedOn ⟨w.addr.toNat, none, w.lanes⟩ = none := rfl
    simp only [State.classifyWrite, State.portions_single hne h, State.handlePortions,
      State.handlePortion_untracked hoff, State.ownerAfter, hoff, Option.map_none, Option.or_none, List.append_nil]

/-- Settles O41: each byte stands in one portion, whose handling passes it; no portion changes a definition, so that
what is a pad byte before the write is one when its portion is handled. -/
theorem stampingKeepsOtherBytes : Obligations.StampingKeepsOtherBytes := by
  intro s w out
  refine ⟨s.classifyWrite_enabled w, fun hb => State.classifyWrite_lanes_of_bypass hb w, fun i l hl h => ?_,
    State.classifyWrite_off⟩
  refine State.classifyWrite_passes hl fun p j hlocated hj hplace => ?_
  have htarget : s.locate (w.addr.toNat + i) = p.target := hplace ▸ hlocated.2 j hj
  rw [htarget, ← hplace] at h
  rcases h with he | hnone | ⟨ref, d, href, hdef, hpad⟩
  · exact .inl he
  · exact .inr (.inl hnone)
  · obtain ⟨-, hstart, -⟩ := hlocated.within href hdef
    have hoffset : p.offset d ref.buffer + j = p.start + j - (d.base + ref.buffer.val * d.stride) :=
      (Nat.sub_add_comm hstart).symm
    exact .inr (.inr ⟨ref, d, href, hdef, hoffset ▸ hpad⟩)

end Sys2Proof.Machine
end

section
/-! What a row may do to the pass-through unit, the notices and the waiting commands: a transaction, a tick or an
expiry leaves the unit alone but for the drain mark, and an event of the ports runs a few shared operations (R145,
R156, R157). -/

namespace Sys2Proof.Machine

/-! ### The notice queue in form (R159 to R162) -/

theorem Notice.isLost_iff (n : Notice) : n.isLost = true ↔ ∃ d, n = .lost d := by
  cases n <;> simp [Notice.isLost]

theorem noticesWf_append_lost (older : List Notice) (d : Nat) :
    noticesWf (older ++ [.lost d]) = true ↔
      older.any Notice.isLost = false ∧ older.length ≤ 31 ∧ 1 ≤ d ∧ d ≤ 65535 := by
  simp [noticesWf, and_assoc, Nat.lt_succ_iff]

theorem noticesWf_append_other (older : List Notice) {n : Notice} (hn : n.isLost = false) :
    noticesWf (older ++ [n]) = true ↔ older.any Notice.isLost = false ∧ older.length ≤ 30 := by
  cases n with
  | lost d => cases hn
  | _ => simp [noticesWf, Nat.lt_succ_iff]

/-- A notice queue in form holds no LOST notice, or one alone, the newest. -/
theorem noticesWf_iff (q : List Notice) :
    noticesWf q = true ↔
      (q.any Notice.isLost = false ∧ q.length ≤ 31) ∨
        ∃ older d, q = older ++ [.lost d] ∧ older.any Notice.isLost = false ∧ older.length ≤ 31 ∧ 1 ≤ d ∧
          d ≤ 65535 := by
  constructor
  · intro h
    rcases List.eq_nil_or_concat' q with rfl | ⟨older, n, rfl⟩
    · exact .inl ⟨rfl, Nat.zero_le _⟩
    · cases hn : n.isLost with
      | false =>
        obtain ⟨hnone, hlen⟩ := (noticesWf_append_other older hn).mp h
        exact .inl ⟨by simp [hnone, hn], by simpa using Nat.lt_succ_of_le hlen⟩
      | true =>
        obtain ⟨d, rfl⟩ := (Notice.isLost_iff n).mp hn
        exact .inr ⟨older, d, rfl, (noticesWf_append_lost older d).mp h⟩
  · rintro (⟨hnone, hlen⟩ | ⟨older, d, rfl, h⟩)
    · rcases List.eq_nil_or_concat' q with rfl | ⟨older, n, rfl⟩
      · rfl
      · rw [List.any_append, Bool.or_eq_false_iff] at hnone
        obtain ⟨holder, hn⟩ := hnone
        exact (noticesWf_append_other older (by simpa using hn)).mpr
          ⟨holder, by simpa [Nat.lt_succ_iff] using hlen⟩
    · exact (noticesWf_append_lost older d).mpr h

theorem noticesWf_postTo {q : List Notice} {n : Notice} (hn : n.isLost = false) (h : noticesWf q = true) :
    noticesWf (postTo q n) = true := by
  rw [noticesWf_iff] at h ⊢
  rcases h with ⟨hnone, hlen⟩ | ⟨older, d, rfl, hnone, hlen, hpos, hmax⟩
  · by_cases hroom : q.length < 31
    · rw [postTo_append q n hnone hroom]
      exact .inl ⟨by simp [hnone, hn], by simpa using hroom⟩
    · rw [postTo_drop q n hnone (by omega)]
      exact .inr ⟨q, 1, rfl, hnone, hlen, by omega, by omega⟩
  · rw [postTo_count older d n hnone]
    exact .inr ⟨older, _, rfl, hnone, hlen, by omega, by omega⟩

theorem noticesWf_tail {n : Notice} {rest : List Notice} (h : noticesWf (n :: rest) = true) :
    noticesWf rest = true := by
  rw [noticesWf_iff] at h ⊢
  rcases h with ⟨hnone, hlen⟩ | ⟨older, d, hq, hnone, hlen, hd⟩
  · rw [List.any_cons, Bool.or_eq_false_iff] at hnone
    exact .inl ⟨hnone.2, Nat.le_of_succ_le hlen⟩
  · cases older with
    | nil =>
      obtain ⟨-, rfl⟩ := List.cons.inj hq
      exact .inl ⟨rfl, Nat.zero_le _⟩
    | cons x older =>
      obtain ⟨-, rfl⟩ := List.cons.inj hq
      rw [List.any_cons, Bool.or_eq_false_iff] at hnone
      exact .inr ⟨older, d, rfl, hnone.2, Nat.le_of_succ_le hlen, hd⟩

/-! ### The pass-through unit, and what leaves it alone -/

/-- The state of the pass-through unit with the records of its ports, and what decides whether rows and requests are
taken. -/
structure Crossing where
  queue         : List QueueEntry
  nextSeq       : SeqNumber
  held          : List HeldRead
  places        : List Place
  drain         : Option PendingDrain
  upstream      : List UpstreamRequest
  presented     : List DownstreamRequest
  answers       : List Answer
  resetAsserted : Bool
  pending       : List Instr

/-- The pass-through unit of a state. -/
def State.crossing (s : State) : Crossing :=
  ⟨s.queue, s.nextSeq, s.held, s.places, s.drain, s.upstream, s.presented, s.answers, s.resetAsserted, s.pending⟩

/-- From `s` to `t` the pass-through unit is left alone, and a notice queue in form stays in form. -/
structure State.Quiet (s t : State) : Prop where
  crossing : t.crossing = s.crossing
  notices  : noticesWf s.notices = true → noticesWf t.notices = true

theorem State.Quiet.refl (s : State) : s.Quiet s := ⟨rfl, id⟩

theorem State.Quiet.trans {s t u : State} (h : s.Quiet t) (g : t.Quiet u) : s.Quiet u :=
  ⟨g.crossing.trans h.crossing, fun hw => g.notices (h.notices hw)⟩

section
variable (s : State)

theorem State.quiet_setSurf (n : SurfaceId) (r : Surface) : s.Quiet (s.setSurf n r) := ⟨rfl, id⟩

theorem State.quiet_post {x : Notice} (hx : x.isLost = false) : s.Quiet (s.post x) := ⟨rfl, noticesWf_postTo hx⟩

/-! ### Commits, retirements and ticks -/

theorem State.quiet_applyCommit (n : SurfaceId) : s.Quiet (s.applyCommit n) := ⟨rfl, id⟩

theorem State.quiet_completeRetirement (n : SurfaceId) (forced : Bool) : s.Quiet (s.completeRetirement n forced) :=
  ⟨rfl, noticesWf_postTo rfl⟩

theorem State.quiet_forceCommit (n : SurfaceId) : s.Quiet (s.forceCommit n) := by
  rcases s.forceCommit_cases n with ⟨-, -, -, e⟩ | ⟨-, e⟩ <;> rw [e]
  · exact (s.quiet_applyCommit n).trans (State.quiet_post _ rfl)
  · exact .refl s

theorem State.quiet_forceRetirement (n : SurfaceId) : s.Quiet (s.forceRetirement n) := by
  rcases s.forceRetirement_cases n with ⟨-, -, e⟩ | ⟨-, e⟩ <;> rw [e]
  · exact s.quiet_completeRetirement n true
  · exact .refl s

theorem State.quiet_countDown (n : SurfaceId) : s.Quiet (s.countDown n) := by
  unfold State.countDown
  split
  · exact s.quiet_setSurf n _
  · exact .refl s

theorem State.quiet_tickSurface (n : SurfaceId) : s.Quiet (s.tickSurface n) :=
  ((s.quiet_countDown n).trans (State.quiet_forceCommit _ n)).trans (State.quiet_forceRetirement _ n)

theorem State.quiet_tickSurfaces (ns : List SurfaceId) : s.Quiet (ns.foldl State.tickSurface s) := by
  induction ns generalizing s with
  | nil => exact .refl s
  | cons n ns ih => exact (s.quiet_tickSurface n).trans (ih _)

theorem State.quiet_tickClock : s.Quiet s.tickClock := by
  rcases s.tickClock_cases with ⟨-, e⟩ | ⟨-, -, e⟩ | ⟨-, -, e⟩ <;> rw [e]
  · exact .refl s
  · exact ⟨rfl, noticesWf_postTo rfl⟩
  · exact ⟨rfl, id⟩

/-! ### The taking of a write by the surface table (R9, R24, R25) -/

theorem State.quiet_commitAtStart (n : SurfaceId) : s.Quiet (s.commitAtStart n) := by
  unfold State.commitAtStart
  split
  · exact (s.quiet_applyCommit n).trans (State.quiet_post _ rfl)
  · exact .refl s

theorem State.quiet_noticeAtStart (n : SurfaceId) (d : SurfaceDef) (k : BufferId) :
    s.Quiet (s.noticeAtStart n d k) := by
  unfold State.noticeAtStart
  split
  · exact s.quiet_post rfl
  · exact .refl s

theorem State.quiet_startFrame (n : SurfaceId) (d : SurfaceDef) (k : BufferId) (hi : Nat) :
    s.Quiet (s.startFrame n d k hi) := by
  have hbegun : s.Quiet (s.beginFrame n k hi) := s.quiet_setSurf n _
  unfold State.startFrame
  dsimp only
  split
  · exact hbegun.trans (State.quiet_completeRetirement _ n false)
  · exact (hbegun.trans (State.quiet_commitAtStart _ n)).trans (State.quiet_noticeAtStart _ n d k)

theorem State.quiet_handlePortion (p : Portion) : s.Quiet (s.handlePortion p).1 := by
  cases ht : s.trackedOn p with
  | none => rw [State.handlePortion_untracked ht]; exact .refl s
  | some out =>
    obtain ⟨⟨n, k⟩, d⟩ := out
    rw [State.handlePortion_tracked (State.tracks_of_trackedOn ht)]
    rcases s.trackPortion_cases n d k (p.lowRow d k) (p.highRow d k) with ⟨-, e⟩ | ⟨-, e⟩ <;> simp only [e]
    · exact s.quiet_startFrame n d k _
    · exact s.quiet_setSurf n _

theorem State.quiet_classifyWrite (w : WriteRequest) : s.Quiet (s.classifyWrite w).1 :=
  State.handlePortions_keeps (P := s.Quiet) (fun u p hu => hu.trans (u.quiet_handlePortion p)) s _ (.refl s)

end

/-! ### The commands that leave the unit alone -/

/-- A command body leaves the pass-through unit alone. -/
def KeepsQuiet (body : State → Reply × State) : Prop := ∀ u : State, u.Quiet (body u).2

theorem keepsQuiet_onSurface {f : CommandFrame} {body : SurfaceId → State → Reply × State}
    (h : ∀ n, KeepsQuiet (body n)) : KeepsQuiet (onSurface f body) := by
  intro u
  unfold onSurface
  split
  · exact .refl u
  · exact h _ u

theorem keepsQuiet_onStaging {f : CommandFrame} {body : SurfaceId → State → Reply × State}
    (h : ∀ n, KeepsQuiet (body n)) : KeepsQuiet (onStaging f body) := by
  rw [onStaging_eq]
  refine keepsQuiet_onSurface fun n u => ?_
  unfold guardStaging
  split
  · exact .refl u
  · exact h n u

theorem keepsQuiet_defineSurface (f : CommandFrame) (n : SurfaceId) : KeepsQuiet (defineSurface f n) := by
  intro u
  unfold defineSurface
  split
  · exact .refl u
  · exact .refl u
  · split <;> exact ⟨rfl, id⟩
  · split <;> exact ⟨rfl, id⟩

theorem keepsQuiet_activateSurface (n : SurfaceId) : KeepsQuiet (activateSurface n) := by
  intro u
  unfold activateSurface
  split
  · split <;> exact ⟨rfl, id⟩
  · exact .refl u

theorem keepsQuiet_retireSurface (n : SurfaceId) : KeepsQuiet (retireSurface n) := by
  intro u
  unfold retireSurface
  split <;> exact ⟨rfl, id⟩

theorem keepsQuiet_releaseSurface (n : SurfaceId) : KeepsQuiet (releaseSurface n) := by
  intro u
  unfold releaseSurface
  split <;> exact ⟨rfl, id⟩

theorem keepsQuiet_readSurface (n : SurfaceId) : KeepsQuiet (readSurface n) := .refl

theorem State.quiet_of_onlyTable {s t : State} (h : s.OnlyTable t) : s.Quiet t := by
  rw [h]
  exact ⟨rfl, id⟩

theorem keepsQuiet_addItem (f : CommandFrame) (n : SurfaceId) : KeepsQuiet (addItem f n) := by
  intro u
  rcases addItem_cases f n u with ⟨c, e⟩ | ⟨it, -, -, e⟩ <;> rw [e]
  · exact .refl u
  · exact State.quiet_of_onlyTable (u.restages_itemAdded n it).onlyTable

theorem keepsQuiet_setItem (f : CommandFrame) (n : SurfaceId) : KeepsQuiet (setItem f n) := by
  intro u
  rcases setItem_cases f n u with ⟨c, e⟩ | ⟨old, it, -, -, e⟩ <;> rw [e]
  · exact .refl u
  · exact State.quiet_of_onlyTable (u.restages_itemSet n _ old it).onlyTable

theorem keepsQuiet_removeItem (f : CommandFrame) (n : SurfaceId) : KeepsQuiet (removeItem f n) := by
  intro u
  rcases removeItem_cases f n u with ⟨c, e⟩ | ⟨old, -, e⟩ <;> rw [e]
  · exact .refl u
  · exact State.quiet_of_onlyTable (u.restages_itemRemoved n _ old).onlyTable

theorem keepsQuiet_moveItem (f : CommandFrame) (n : SurfaceId) : KeepsQuiet (moveItem f n) := by
  intro u
  rcases moveItem_cases f n u with ⟨c, e⟩ | ⟨it, -, -, e⟩ <;> rw [e]
  · exact .refl u
  · exact u.quiet_setSurf n _

theorem keepsQuiet_clearStaged (n : SurfaceId) : KeepsQuiet (clearStaged n) :=
  fun u => State.quiet_of_onlyTable (u.restages_stagedCleared n).onlyTable

theorem keepsQuiet_cloneActive (n : SurfaceId) : KeepsQuiet (cloneActive n) := by
  intro u
  rcases cloneActive_cases n u with ⟨c, p, -, e⟩ | ⟨-, e⟩ <;> rw [e]
  · exact .refl u
  · exact State.quiet_of_onlyTable (u.restages_activeCloned n).onlyTable

theorem keepsQuiet_selectPage (f : CommandFrame) (n : SurfaceId) : KeepsQuiet (selectPage f n) := by
  intro u
  rcases selectPage_cases f n u with ⟨c, e⟩ | ⟨p, e⟩ <;> rw [e]
  · exact .refl u
  · exact u.quiet_setSurf n _

theorem keepsQuiet_readItem (f : CommandFrame) (n : SurfaceId) : KeepsQuiet (readItem f n) := by
  intro u
  unfold readItem
  split
  · exact .refl u
  · split
    · exact .refl u
    · split <;> exact .refl u

theorem keepsQuiet_commit (n : SurfaceId) : KeepsQuiet (commit n) := by
  intro u
  unfold commit
  dsimp only
  split
  · split <;> exact ⟨rfl, id⟩
  · exact .refl u

theorem keepsQuiet_cancelCommit (n : SurfaceId) : KeepsQuiet (cancelCommit n) := by
  intro u
  unfold cancelCommit
  dsimp only
  split
  · split <;> exact ⟨rfl, id⟩
  · exact .refl u

theorem State.quiet_setPage (s : State) (p : Page) (g : GlyphPage) : s.Quiet (s.setPage p g) := by
  cases p <;> exact ⟨rfl, id⟩

theorem keepsQuiet_writeGlyph (f : CommandFrame) : KeepsQuiet (writeGlyph f) := by
  intro u
  unfold writeGlyph
  split
  · split
    · exact .refl u
    · exact u.quiet_setPage _ _
  · exact .refl u

theorem keepsQuiet_writePageHeader (f : CommandFrame) : KeepsQuiet (writePageHeader f) := by
  intro u
  unfold writePageHeader
  split
  · split
    · exact .refl u
    · exact u.quiet_setPage _ _
  · exact .refl u

theorem keepsQuiet_readGlyph (f : CommandFrame) : KeepsQuiet (readGlyph f) := by
  intro u
  unfold readGlyph
  split <;> exact .refl u

theorem keepsQuiet_writeString (f : CommandFrame) : KeepsQuiet (writeString f) := by
  intro u
  unfold writeString
  split
  · exact .refl u
  · split
    · exact .refl u
    · split <;> exact ⟨rfl, id⟩

theorem keepsQuiet_readString (f : CommandFrame) : KeepsQuiet (readString f) := by
  intro u
  unfold readString
  split <;> exact .refl u

theorem keepsQuiet_setClock (f : CommandFrame) : KeepsQuiet (setClock f) := by
  intro u
  unfold setClock
  split <;> exact ⟨rfl, id⟩

theorem keepsQuiet_holdClock : KeepsQuiet holdClock := fun _ => ⟨rfl, id⟩

theorem keepsQuiet_adjustClock (f : CommandFrame) : KeepsQuiet (adjustClock f) := by
  intro u
  unfold adjustClock
  split
  · exact .refl u
  · split <;> exact ⟨rfl, id⟩

theorem keepsQuiet_readClock : KeepsQuiet readClock := .refl

theorem keepsQuiet_setBypass (f : CommandFrame) : KeepsQuiet (setBypass f) := by
  intro u
  unfold setBypass
  split
  · exact .refl u
  · split <;> exact ⟨rfl, id⟩

theorem keepsQuiet_readStatus : KeepsQuiet readStatus := .refl

/-- NEXT NOTICE takes the oldest notice, which leaves the LOST notice, if there is one, the newest (R164). -/
theorem keepsQuiet_nextNotice : KeepsQuiet nextNotice := by
  intro u
  unfold nextNotice
  split
  · exact .refl u
  · rename_i n rest hq
    exact ⟨rfl, fun h => noticesWf_tail (hq ▸ h)⟩

/-! ### The commands that move the drain (R151, R176) -/

/-- What a command may do to a pending drain: leave it, clear it, or, where none is pending, mark the newest entry. -/
inductive DrainMay (q : List QueueEntry) (d : Option PendingDrain) : Option PendingDrain → Prop where
  | stays : DrainMay q d d
  | cleared : DrainMay q d none
  | marked {e : QueueEntry} (id : Byte) (hnone : d = none) (hlast : q.getLast? = some e) :
      DrainMay q d (some ⟨e.seq, id⟩)

/-- A command body leaves the pass-through unit alone but for the drain. -/
def KeepsCrossing (body : State → Reply × State) : Prop :=
  ∀ u : State, ∃ d, DrainMay u.queue u.drain d ∧ State.Quiet { u with drain := d } (body u).2

theorem KeepsQuiet.keepsCrossing {body : State → Reply × State} (h : KeepsQuiet body) : KeepsCrossing body :=
  fun u => ⟨u.drain, .stays, h u⟩

theorem keepsCrossing_takeDrain (f : CommandFrame) : KeepsCrossing (takeDrain f) := by
  intro u
  unfold takeDrain
  split
  · exact ⟨_, .stays, .refl u⟩
  · rename_i hnone
    split
    · exact ⟨_, .stays, u.quiet_post rfl⟩
    · rename_i hlast
      exact ⟨_, .marked f.seq hnone hlast, .refl _⟩

theorem keepsCrossing_softReset : KeepsCrossing fun s => (Reply.done, s.softReset) :=
  fun _ => ⟨none, .cleared, rfl, fun _ => rfl⟩

/-! ### Every row but a hard reset -/

/-- What a row other than a hard reset may do to the pass-through unit, in the terms of its operations. -/
inductive State.RowDoes (s : State) : State → Prop where
  /-- A transaction, a tick or an expiry: the unit is left alone but for the drain. -/
  | quiet {t : State} {d : Option PendingDrain} (hd : DrainMay s.queue s.drain d)
      (h : State.Quiet { s with drain := d } t) : s.RowDoes t
  /-- An upstream request while RESETN is asserted. -/
  | waits (q : UpstreamRequest) (hs : s.resetAsserted = true) : s.RowDoes (s.withUpstream (s.upstream ++ [q]))
  | arrives (q : UpstreamRequest) (hs : s.Released) : s.RowDoes (s.withUpstream (s.upstream ++ [q])).settle
  | begins (csnLow : Bool) (hs : s.resetAsserted = true) :
      s.RowDoes ({ s with resetAsserted := false, linkAbandoned := csnLow } : State).settle
  | issues (hs : s.Released) : s.RowDoes s.issueOne
  | releases (hs : s.Released) : s.RowDoes s.releaseOne
  | completes (st : CompletionStatus) (hs : s.Released) : s.RowDoes (s.completeHead st).meetDrain.settle
  | responds (t : Tag) (ret : ReadReturn) (hs : s.Released) : s.RowDoes ((s.respond t ret).answerReady t).settle
  | answers (t : Tag) (hs : s.Released) : s.RowDoes (s.answerOne t)
  | meetsDrain (hs : s.Released) : s.RowDoes s.meetDrain

theorem State.rowDoes_of_quiet {s t : State} (h : s.Quiet t) : s.RowDoes t := .quiet .stays h

/-- The row answers a next state, and does to the unit what `RowDoes` says. -/
def State.AnswersRow (s : State) (out : Host.Outcome State Fault Refusal) : Prop := ∃ t, out = .next t ∧ s.RowDoes t

/-- A row that is not taken while RESETN is asserted. -/
theorem State.answersRow_unlessReset {s u : State} (h : s.Released → s.RowDoes u) :
    s.AnswersRow (if s.resetAsserted = true then .next s else .next u) := by
  split
  · exact ⟨s, rfl, State.rowDoes_of_quiet (.refl s)⟩
  · rename_i hs
    exact ⟨u, rfl, h (by simpa using hs)⟩

/-- A transaction takes the frame in and replaces the record, which is not of the unit; the rest its body does. -/
theorem KeepsCrossing.answersRow {body : State → Reply × State} (hb : KeepsCrossing body) (number : Byte)
    (f : CommandFrame) (ok : Bool) (s : State) : s.AnswersRow (runCommand number f ok body s) := by
  refine State.answersRow_unlessReset fun _ => ?_
  cases ok
  · exact State.rowDoes_of_quiet ⟨rfl, id⟩
  · obtain ⟨d, hd, hcrossing, hnotices⟩ := hb (s.receive (frameBytes number f))
    exact .quiet hd ⟨hcrossing, hnotices⟩

theorem KeepsQuiet.answersRow {body : State → Reply × State} (hb : KeepsQuiet body) (number : Byte)
    (f : CommandFrame) (ok : Bool) (s : State) : s.AnswersRow (runCommand number f ok body s) :=
  hb.keepsCrossing.answersRow number f ok s

theorem State.answersRow_execNop (s : State) (f : CommandFrame) : s.AnswersRow (execNop f s) := by
  unfold execNop
  dsimp only
  split
  · exact ⟨s, rfl, State.rowDoes_of_quiet (.refl s)⟩
  · split <;> exact ⟨_, rfl, State.rowDoes_of_quiet ⟨rfl, id⟩⟩

theorem State.answersRow_execBadFrame (s : State) (raw : RawTransaction) : s.AnswersRow (execBadFrame raw s) := by
  unfold execBadFrame
  split
  · exact ⟨s, rfl, State.rowDoes_of_quiet (.refl s)⟩
  · split <;> exact ⟨_, rfl, State.rowDoes_of_quiet ⟨rfl, id⟩⟩

theorem State.answersRow_execResetnRelease (s : State) (csnLow : Bool) :
    s.AnswersRow (execResetnRelease csnLow s) := by
  unfold execResetnRelease
  split
  · rename_i hs
    exact ⟨_, rfl, .begins csnLow hs⟩
  · exact ⟨s, rfl, State.rowDoes_of_quiet (.refl s)⟩

theorem State.rowDoes_arrive (s : State) (q : UpstreamRequest) : s.RowDoes (s.arrive q) := by
  unfold State.arrive
  dsimp only
  split
  · rename_i hs
    exact .waits q hs
  · rename_i hs
    exact .arrives q (by simpa using hs)

/-- Every row but a hard reset answers a next state, and does to the unit one of these things. -/
theorem State.answersRow_exec (s : State) {c : Instr} (hc : ∀ received, c ≠ .hardReset received) :
    s.AnswersRow (exec c s) := by
  cases c with
  | nop f => exact s.answersRow_execNop f
  | softReset f => exact keepsCrossing_softReset.answersRow ..
  | defineSurface f => exact (keepsQuiet_onSurface (keepsQuiet_defineSurface f)).answersRow ..
  | activateSurface f => exact (keepsQuiet_onSurface keepsQuiet_activateSurface).answersRow ..
  | retireSurface f => exact (keepsQuiet_onSurface keepsQuiet_retireSurface).answersRow ..
  | releaseSurface f => exact (keepsQuiet_onSurface keepsQuiet_releaseSurface).answersRow ..
  | readSurface f => exact (keepsQuiet_onSurface keepsQuiet_readSurface).answersRow ..
  | addItem f => exact (keepsQuiet_onStaging (keepsQuiet_addItem f)).answersRow ..
  | setItem f => exact (keepsQuiet_onStaging (keepsQuiet_setItem f)).answersRow ..
  | removeItem f => exact (keepsQuiet_onStaging (keepsQuiet_removeItem f)).answersRow ..
  | moveItem f => exact (keepsQuiet_onStaging (keepsQuiet_moveItem f)).answersRow ..
  | clearStaged f => exact (keepsQuiet_onStaging keepsQuiet_clearStaged).answersRow ..
  | cloneActive f => exact (keepsQuiet_onStaging keepsQuiet_cloneActive).answersRow ..
  | selectPage f => exact (keepsQuiet_onStaging (keepsQuiet_selectPage f)).answersRow ..
  | readItem f => exact (keepsQuiet_onSurface (keepsQuiet_readItem f)).answersRow ..
  | commit f => exact (keepsQuiet_onSurface keepsQuiet_commit).answersRow ..
  | cancelCommit f => exact (keepsQuiet_onSurface keepsQuiet_cancelCommit).answersRow ..
  | writeGlyph f => exact (keepsQuiet_writeGlyph f).answersRow ..
  | writePageHeader f => exact (keepsQuiet_writePageHeader f).answersRow ..
  | readGlyph f => exact (keepsQuiet_readGlyph f).answersRow ..
  | writeString f => exact (keepsQuiet_writeString f).answersRow ..
  | readString f => exact (keepsQuiet_readString f).answersRow ..
  | setClock f => exact (keepsQuiet_setClock f).answersRow ..
  | holdClock f => exact keepsQuiet_holdClock.answersRow ..
  | adjustClock f => exact (keepsQuiet_adjustClock f).answersRow ..
  | readClock f => exact keepsQuiet_readClock.answersRow ..
  | setBypass f => exact (keepsQuiet_setBypass f).answersRow ..
  | drain f => exact (keepsCrossing_takeDrain f).answersRow ..
  | readStatus f => exact keepsQuiet_readStatus.answersRow ..
  | nextNotice f => exact keepsQuiet_nextNotice.answersRow ..
  | badFrame raw => exact s.answersRow_execBadFrame raw
  | badCommand number f => exact State.answersRow_unlessReset fun _ => State.rowDoes_of_quiet ⟨rfl, id⟩
  | hardReset received => exact absurd rfl (hc received)
  | resetnRelease csnLow => exact s.answersRow_execResetnRelease csnLow
  | tick =>
    have hticks := s.quiet_tickClock.trans (State.quiet_tickSurfaces _ surfaceIds)
    exact State.answersRow_unlessReset fun _ => State.rowDoes_of_quiet hticks
  | forcedCommit n => exact State.answersRow_unlessReset fun _ => State.rowDoes_of_quiet (s.quiet_forceCommit n)
  | forcedRetirement n => exact State.answersRow_unlessReset fun _ => State.rowDoes_of_quiet (s.quiet_forceRetirement n)
  | upstreamWrite w => exact ⟨_, rfl, s.rowDoes_arrive (.write w)⟩
  | upstreamRead r => exact ⟨_, rfl, s.rowDoes_arrive (.read r)⟩
  | writeIssue => exact State.answersRow_unlessReset .issues
  | writeCompletion st => exact State.answersRow_unlessReset (.completes st)
  | heldReadRelease => exact State.answersRow_unlessReset .releases
  | readResponse t ret => exact State.answersRow_unlessReset (.responds t ret)
  | upstreamAnswer t => exact State.answersRow_unlessReset (.answers t)
  | drainMet => exact State.answersRow_unlessReset .meetsDrain

/-- What a step may do to the unit: nothing, a hard reset, or what its row does. -/
theorem State.step_cases {s t : State} (ht : step s = .next t) :
    (s.pending = [] ∧ t = s) ∨
      (∃ received rest, s.pending = .hardReset received :: rest ∧
        execHardReset received { s with pending := rest } = .next t) ∨
      ∃ rest, State.RowDoes { s with pending := rest } t := by
  unfold step at ht
  split at ht
  case h_1 hnone =>
    cases ht
    exact .inl ⟨hnone, rfl⟩
  case h_2 c rest hpending =>
    by_cases hc : ∃ received, c = .hardReset received
    · obtain ⟨received, rfl⟩ := hc
      exact .inr (.inl ⟨received, rest, hpending, ht⟩)
    · obtain ⟨u, hu, hrow⟩ :=
        State.answersRow_exec { s with pending := rest } fun received he => hc ⟨received, he⟩
      rw [ht] at hu
      cases hu
      exact .inr (.inr ⟨rest, hrow⟩)

end Sys2Proof.Machine
end

section
/-! What releases, issues and the taking of requests consist of (R139 to R143, R146, R147): a few elementary moves, each
with the condition under which it is made. What every move keeps, an event of the ports keeps. -/

namespace Sys2Proof.Machine

/-! ### The moves -/

/-- One elementary move of the pass-through unit on its way to a state where nothing is left to happen. -/
inductive State.Proceeds : State → State → Prop where
  /-- A write that is taken is tracked and stamped (R9). -/
  | classifies (s : State) (w : WriteRequest) : Proceeds s (s.classifyWrite w).1
  | posts (s : State) {n : Notice} (hn : n.isLost = false) : Proceeds s (s.post n)
  | leavesWaiting (s : State) (us : List UpstreamRequest) : Proceeds s (s.withUpstream us)
  | releases {s : State} {h : HeldRead} {rest : List HeldRead} (hheld : s.held = h :: rest)
      (hready : s.heldReady h = true) :
      Proceeds s
        { s with
          held := rest
          places := forwardFirst h.req.tag s.places
          presented := s.presented ++ [h.presentedAs] }
  | issues {s : State} {before after : List QueueEntry} {e : QueueEntry} (hqueue : s.queue = before ++ e :: after)
      (hbefore : ∀ x ∈ before, x.state = .issued) (he : e.state = .queued) (hroom : s.issuedCount < 4)
      (hback : s.heldBack e = false) :
      Proceeds s
        { s with
          queue := before ++ { e with state := .issued } :: after
          presented := s.presented ++ [.write e.addr e.lanes e.tag] }
  | queues {s : State} {e : QueueEntry} (hroom : s.queue.length < 16) (hseq : e.seq = s.nextSeq)
      (he : e.state = .queued) : Proceeds s { s with queue := s.queue ++ [e], nextSeq := s.nextSeq + 1 }
  | owes {s : State} {t : Tag} (a : AnswerStatus) (hneeds : s.needsPlace t = true) (hroom : s.places.length < 32) :
      Proceeds s { s with places := s.places ++ [⟨t, .ready a⟩] }
  | answers (s : State) (a : Answer) : Proceeds s { s with answers := s.answers ++ [a] }
  | holds {s : State} (r : ReadRequest) (mark : Option SeqNumber) (hroom : s.places.length < 32)
      (hlist : s.held.length < 4) :
      Proceeds s
        { s with
          held := s.held ++ [⟨r, mark, s.nextSeq⟩]
          places := s.places ++ [⟨r.tag, .held⟩] }
  | forwards {s : State} (r : ReadRequest) (hroom : s.places.length < 32) :
      Proceeds s
        { s with
          places := s.places ++ [⟨r.tag, .forwarded⟩]
          presented := s.presented ++ [.read r.addr r.length r.tag] }

/-- A run of moves. -/
abbrev State.ProceedsTo : State → State → Prop := Relation.ReflTransGen State.Proceeds

theorem State.ProceedsTo.keeps {P : State → Prop} (hP : ∀ u v, u.Proceeds v → P u → P v) {s t : State}
    (h : s.ProceedsTo t) (hs : P s) : P t := by
  induction h with
  | refl => exact hs
  | tail _ hmove ih => exact hP _ _ hmove ih

/-! ### The operations are runs of moves -/

theorem State.proceedsTo_releaseOne (s : State) : s.ProceedsTo s.releaseOne := by
  rcases s.releaseOne_cases with ⟨-, e⟩ | ⟨h, rest, hheld, hready, e⟩
  · rw [e]
  · rw [e, movePlace_forwardFirst]
    exact .single (.releases hheld hready)

theorem State.proceedsTo_issueOne (s : State) : s.ProceedsTo s.issueOne := by
  rcases s.issueOne_cases with ⟨-, e⟩ | ⟨before, x, after, hqueue, hbefore, hx, hroom, hback, e⟩
  · rw [e]
  · rw [e]
    exact .single (.issues hqueue hbefore hx hroom hback)

theorem State.proceedsTo_advance (s : State) : s.ProceedsTo s.advance :=
  State.advance_keeps (P := s.ProceedsTo) (fun u hu => hu.trans u.proceedsTo_releaseOne)
    (fun u hu => hu.trans u.proceedsTo_issueOne) s .refl

theorem State.answerFits_iff (s : State) (t : Tag) :
    s.answerFits t = true ↔ (s.needsPlace t = true → s.places.length < 32) := by
  cases h : s.needsPlace t <;> simp [State.answerFits, h]

theorem State.proceedsTo_oweAnswer {s : State} {t : Tag} (h : s.answerFits t = true) (a : AnswerStatus) :
    s.ProceedsTo (s.oweAnswer t a) := by
  rcases s.oweAnswer_cases t a with ⟨hneeds, e⟩ | ⟨-, e⟩ <;> rw [e]
  · exact .single (.owes a hneeds ((s.answerFits_iff t).mp h hneeds))
  · exact .single (.answers s ⟨t, a⟩)

theorem State.proceedsTo_takeMalformed {s : State} {t : Tag} (h : s.answerFits t = true) (a : Address) (len : Nat) :
    s.ProceedsTo (s.takeMalformed a len t) :=
  .head (.posts s (n := .malformed a len t) rfl) (State.proceedsTo_oweAnswer (s := s.post _) h .fault)

theorem State.proceedsTo_enqueueWrite {s : State} {w : WriteRequest} (hroom : s.queue.length < 16)
    (h : s.answerFits w.tag = true) : s.ProceedsTo (s.enqueueWrite w) := by
  obtain ⟨hqueue, -, -, hplaces, -⟩ := (s.onlyTableAndNotices_classifyWrite w).traffic
  have hroom' : (s.classifyWrite w).1.queue.length < 16 := by rwa [hqueue]
  have hqueued := State.Proceeds.queues hroom'
    (e := ⟨_, w.addr, (s.classifyWrite w).2.lanes, w.tag, (s.classifyWrite w).2.owner, .queued⟩) rfl rfl
  refine .head (.classifies s w) (.head hqueued (State.proceedsTo_oweAnswer ?_ .posted))
  rw [State.answerFits_iff, State.needsPlace] at h ⊢
  simpa only [hplaces] using h

theorem State.proceedsTo_acceptRead {s : State} {r : ReadRequest} (hroom : s.places.length < 32)
    (h : s.mustHold r = true → s.held.length < 4) : s.ProceedsTo (s.acceptRead r) := by
  unfold State.acceptRead
  split
  · rename_i hmust
    exact .single (.holds r _ hroom (h hmust))
  · exact .single (.forwards r hroom)

/-- When a write can be taken, by what it is (R139). -/
theorem State.canTake_write_iff (s : State) (w : WriteRequest) :
    s.canTake (.write w) = true ↔
      s.answerFits w.tag = true ∧ (malformedWrite w = false → anyEnabled w.lanes = true → s.queue.length < 16) := by
  cases hm : malformedWrite w <;> cases ha : anyEnabled w.lanes <;> simp [State.canTake, hm, ha, and_comm]

/-- When a read can be taken, by what it is (R139). -/
theorem State.canTake_read_iff (s : State) (r : ReadRequest) :
    s.canTake (.read r) = true ↔
      if malformedRead r then s.answerFits r.tag = true
      else s.places.length < 32 ∧ (s.mustHold r = true → s.held.length < 4) := by
  cases hm : malformedRead r <;> cases hh : s.mustHold r <;> simp [State.canTake, hm, hh]

theorem State.proceedsTo_takeRequest {s : State} {q : UpstreamRequest} (h : s.canTake q = true) :
    s.ProceedsTo (s.takeRequest q) := by
  cases q with
  | write w =>
    obtain ⟨hfits, hroom⟩ := (s.canTake_write_iff w).mp h
    rw [State.takeRequest]
    split
    · exact State.proceedsTo_takeMalformed hfits _ _
    · rename_i hm
      split
      · rename_i ha
        exact State.proceedsTo_enqueueWrite (hroom (by simpa using hm) ha) hfits
      · exact State.proceedsTo_oweAnswer hfits .posted
  | read r =>
    rw [State.canTake_read_iff] at h
    rw [State.takeRequest]
    split
    · rename_i hm
      exact State.proceedsTo_takeMalformed (by simpa [hm] using h) _ _
    · rename_i hm
      rw [if_neg hm] at h
      exact State.proceedsTo_acceptRead h.1 h.2

theorem State.proceedsTo_settle (s : State) : s.ProceedsTo s.settle :=
  State.takeWaiting_keeps (P := s.ProceedsTo) (fun u hu => hu.trans u.proceedsTo_advance)
    (fun _ _ hu hq => hu.trans (State.proceedsTo_takeRequest hq)) (fun u us hu => hu.tail (.leavesWaiting u us)) _ _
    s.proceedsTo_advance

/-! ### What the moves leave alone -/

/-- The parts of the state that no event of the ports moves. -/
theorem State.Proceeds.outside {s t : State} (h : s.Proceeds t) :
    t.pending = s.pending ∧ t.resetAsserted = s.resetAsserted ∧ t.linkAbandoned = s.linkAbandoned := by
  cases h with
  | classifies w => rw [s.onlyTableAndNotices_classifyWrite w]; exact ⟨rfl, rfl, rfl⟩
  | _ => exact ⟨rfl, rfl, rfl⟩

theorem State.ProceedsTo.outside {s t : State} (h : s.ProceedsTo t) :
    t.pending = s.pending ∧ t.resetAsserted = s.resetAsserted ∧ t.linkAbandoned = s.linkAbandoned := by
  refine h.keeps
    (P := fun u => u.pending = s.pending ∧ u.resetAsserted = s.resetAsserted ∧ u.linkAbandoned = s.linkAbandoned)
    (fun u v h ⟨hp, hr, hl⟩ => ?_) ⟨rfl, rfl, rfl⟩
  obtain ⟨gp, gr, gl⟩ := h.outside
  exact ⟨gp.trans hp, gr.trans hr, gl.trans hl⟩

theorem State.settle_outside (s : State) :
    s.settle.pending = s.pending ∧ s.settle.resetAsserted = s.resetAsserted ∧
      s.settle.linkAbandoned = s.linkAbandoned :=
  s.proceedsTo_settle.outside

/-- The return of one or more answers of a tag writes the places and the answers alone. -/
theorem State.answerOne_eq (s : State) (t : Tag) :
    s.answerOne t = { s with places := (s.answerOne t).places, answers := (s.answerOne t).answers } := by
  rcases s.answerOne_cases t with ⟨-, e⟩ | ⟨_, _, _, -, -, e⟩ <;> rw [e]

theorem State.answerReady_eq (s : State) (t : Tag) :
    s.answerReady t = { s with places := (s.answerReady t).places, answers := (s.answerReady t).answers } := by
  refine repeatStep_keeps (P := fun u => u = { s with places := u.places, answers := u.answers }) (fun u hu => ?_) _ s
    rfl
  rw [u.answerOne_eq t, hu]

theorem State.respond_eq (s : State) (t : Tag) (ret : ReadReturn) :
    s.respond t ret = { s with places := (s.respond t ret).places } := by
  unfold State.respond
  split <;> rfl

theorem State.completeHead_eq (s : State) (st : CompletionStatus) :
    s.completeHead st =
      { s with queue := (s.completeHead st).queue, notices := (s.completeHead st).notices } := by
  rcases s.completeHead_cases st with ⟨-, e⟩ | ⟨_, _, -, -, e⟩ <;> rw [e]

theorem State.meetDrain_eq (s : State) :
    s.meetDrain = { s with drain := s.meetDrain.drain, notices := s.meetDrain.notices } := by
  rcases s.meetDrain_cases with ⟨-, e⟩ | ⟨_, -, -, e⟩ <;> rw [e]

/-! ### The waiting commands (R157, R174) -/

theorem State.RowDoes.pending {s t : State} (h : s.RowDoes t) : t.pending = s.pending := by
  cases h with
  | quiet hd h => exact congrArg Crossing.pending h.crossing
  | waits q hs => rfl
  | arrives q hs => exact (State.settle_outside _).1
  | begins csnLow hs => exact (State.settle_outside _).1
  | issues hs => exact s.proceedsTo_issueOne.outside.1
  | releases hs => exact s.proceedsTo_releaseOne.outside.1
  | completes st hs => rw [(State.settle_outside _).1, State.meetDrain_eq, State.completeHead_eq]
  | responds tag ret hs => rw [(State.settle_outside _).1, State.answerReady_eq, State.respond_eq]
  | answers tag hs => rw [State.answerOne_eq]
  | meetsDrain hs => rw [State.meetDrain_eq]

/-- Settles O2: a hard reset keeps the waiting commands, and so does whatever another row does. -/
theorem commandsAnswerNext : Obligations.CommandsAnswerNext := by
  intro c s
  by_cases hc : ∃ received, c = .hardReset received
  · obtain ⟨received, rfl⟩ := hc
    exact ⟨_, rfl, rfl⟩
  · obtain ⟨t, ht, hrow⟩ := s.answersRow_exec fun received he => hc ⟨received, he⟩
    exact ⟨t, ht, hrow.pending⟩

/-- Settles O1: a step is defined by the front of the queue. -/
theorem stepRunsFrontCommand : Obligations.StepRunsFrontCommand := by
  refine ⟨fun s c rest hpending => ?_, fun s hpending => ?_⟩ <;> simp only [step, hpending]

end Sys2Proof.Machine
end

section
/-! The notice queue, the posted write queue and the two lists stay in form (R143, R147, R150, R159). -/

namespace Sys2Proof.Machine

/-! ### The notice queue (R159 to R161) -/

theorem State.Proceeds.noticesWf {s t : State} (h : s.Proceeds t) (hs : noticesWf s.notices = true) :
    noticesWf t.notices = true := by
  cases h with
  | classifies w => exact (s.quiet_classifyWrite w).notices hs
  | posts hn => exact noticesWf_postTo hn hs
  | _ => exact hs

theorem State.ProceedsTo.noticesWf {s t : State} (h : s.ProceedsTo t) (hs : noticesWf s.notices = true) :
    noticesWf t.notices = true :=
  h.keeps (P := fun u => Sys2Proof.Machine.noticesWf u.notices = true) (fun _ _ hm hu => hm.noticesWf hu) hs

theorem State.noticesWf_completeHead {s : State} (h : noticesWf s.notices = true) (st : CompletionStatus) :
    noticesWf (s.completeHead st).notices = true := by
  rcases s.completeHead_cases st with ⟨-, e⟩ | ⟨x, rest, -, -, e⟩ <;> rw [e]
  · exact h
  · cases st with
    | ok => exact h
    | fault => exact noticesWf_postTo rfl h

theorem State.noticesWf_meetDrain {s : State} (h : noticesWf s.notices = true) :
    noticesWf s.meetDrain.notices = true := by
  rcases s.meetDrain_cases with ⟨-, e⟩ | ⟨d, -, -, e⟩ <;> rw [e]
  · exact h
  · exact noticesWf_postTo rfl h

theorem State.RowDoes.noticesWf {s t : State} (h : s.RowDoes t) (hs : noticesWf s.notices = true) :
    noticesWf t.notices = true := by
  cases h with
  | quiet hd h => exact h.notices hs
  | waits q _ => exact hs
  | arrives q _ => exact (State.proceedsTo_settle _).noticesWf hs
  | begins csnLow _ => exact (State.proceedsTo_settle _).noticesWf hs
  | issues _ => exact s.proceedsTo_issueOne.noticesWf hs
  | releases _ => exact s.proceedsTo_releaseOne.noticesWf hs
  | completes st _ =>
    exact (State.proceedsTo_settle _).noticesWf (State.noticesWf_meetDrain (State.noticesWf_completeHead hs st))
  | responds tag ret _ =>
    refine (State.proceedsTo_settle _).noticesWf ?_
    rwa [State.answerReady_eq, State.respond_eq]
  | answers tag _ => rwa [State.answerOne_eq]
  | meetsDrain _ => exact State.noticesWf_meetDrain hs

/-! ### The sequence numbers of the queue (R143) -/

theorem seqsFrom_iff (a : SeqNumber) (q : List QueueEntry) :
    seqsFrom a q = true ↔ q.map QueueEntry.seq = (List.range q.length).map fun i => a + BitVec.ofNat 32 i := by
  induction q generalizing a with
  | nil => simp [seqsFrom]
  | cons e es ih =>
    have hnext (i : Nat) : a + 1#32 + BitVec.ofNat 32 i = a + BitVec.ofNat 32 (i + 1) := by
      rw [BitVec.add_assoc, BitVec.ofNat_add, BitVec.add_comm (BitVec.ofNat 32 i)]
    simp [seqsFrom, ih, hnext, List.range_succ_eq_map, Function.comp_def]

/-- The new entry takes the next number, which is the one behind the newest. -/
theorem seqsFrom_append {n : SeqNumber} {q : List QueueEntry} {e : QueueEntry}
    (h : seqsFrom (n - BitVec.ofNat 32 q.length) q = true) (he : e.seq = n) :
    seqsFrom (n + 1 - BitVec.ofNat 32 (q ++ [e]).length) (q ++ [e]) = true := by
  have hfirst : n + 1 - BitVec.ofNat 32 (q ++ [e]).length = n - BitVec.ofNat 32 q.length := by
    rw [List.length_append, List.length_singleton, BitVec.ofNat_add]
    bv_omega
  rw [hfirst, seqsFrom_iff, List.map_append, (seqsFrom_iff _ _).mp h, List.length_append, List.length_singleton,
    List.range_succ, List.map_append]
  simp [he]

/-- Behind the head the numbers go on from the next one. -/
theorem seqsFrom_tail {n : SeqNumber} {e : QueueEntry} {rest : List QueueEntry}
    (h : seqsFrom (n - BitVec.ofNat 32 (e :: rest).length) (e :: rest) = true) :
    seqsFrom (n - BitVec.ofNat 32 rest.length) rest = true ∧ n - BitVec.ofNat 32 rest.length = e.seq + 1 := by
  rw [seqsFrom, Bool.and_eq_true, beq_iff_eq, List.length_cons, BitVec.ofNat_add] at h
  have hnext : n - BitVec.ofNat 32 rest.length = e.seq + 1 := by
    rw [h.1]
    bv_omega
  rw [hnext, h.1]
  exact ⟨h.2, rfl⟩

/-- No entry behind the head is at or below it, as far as sixteen entries reach (R143; log 9). -/
theorem seqAtOrBelow_of_behind {a : SeqNumber} {q : List QueueEntry} (h : seqsFrom (a + 1) q = true)
    (hlen : q.length ≤ 16) : ∀ x ∈ q, seqAtOrBelow x.seq a = false := by
  intro x hx
  have hmem : x.seq ∈ q.map QueueEntry.seq := List.mem_map_of_mem hx
  rw [(seqsFrom_iff _ _).mp h, List.mem_map] at hmem
  obtain ⟨i, hi, hseq⟩ := hmem
  rw [List.mem_range] at hi
  rw [← hseq, seqAtOrBelow, decide_eq_false_iff_not]
  bv_omega

theorem seqAtOrBelow_refl (a : SeqNumber) : seqAtOrBelow a a = true := by
  simp [seqAtOrBelow]

/-! ### The ISSUED entries in front (R143) -/

theorem issuedFirst_cons_issued {e : QueueEntry} (he : e.state = .issued) (es : List QueueEntry) :
    issuedFirst (e :: es) = issuedFirst es := by
  rw [issuedFirst, if_pos he]

theorem issuedFirst_cons_queued {e : QueueEntry} (he : e.state = .queued) (es : List QueueEntry) :
    issuedFirst (e :: es) = true ↔ ∀ x ∈ es, x.state = .queued := by
  rw [issuedFirst, if_neg (by rw [he]; nofun)]
  simp

theorem issuedFirst_of_queued {q : List QueueEntry} (h : ∀ x ∈ q, x.state = .queued) : issuedFirst q = true := by
  cases q with
  | nil => rfl
  | cons e es =>
    obtain ⟨he, hes⟩ := List.forall_mem_cons.mp h
    exact (issuedFirst_cons_queued he es).mpr hes

theorem issuedFirst_append {before : List QueueEntry} (hb : ∀ x ∈ before, x.state = .issued) (q : List QueueEntry) :
    issuedFirst (before ++ q) = issuedFirst q := by
  induction before with
  | nil => rfl
  | cons e es ih =>
    obtain ⟨he, hes⟩ := List.forall_mem_cons.mp hb
    rw [List.cons_append, issuedFirst_cons_issued he, ih hes]

/-- The oldest QUEUED entry becomes ISSUED behind ISSUED entries and in front of QUEUED ones. -/
theorem issuedFirst_issue {before after : List QueueEntry} {e : QueueEntry}
    (h : issuedFirst (before ++ e :: after) = true) (hb : ∀ x ∈ before, x.state = .issued) (he : e.state = .queued) :
    issuedFirst (before ++ { e with state := .issued } :: after) = true := by
  rw [issuedFirst_append hb] at h ⊢
  rw [issuedFirst_cons_issued rfl]
  exact issuedFirst_of_queued ((issuedFirst_cons_queued he after).mp h)

theorem issuedFirst_concat {q : List QueueEntry} {e : QueueEntry} (h : issuedFirst q = true) (he : e.state = .queued) :
    issuedFirst (q ++ [e]) = true := by
  induction q with
  | nil => exact issuedFirst_of_queued (by simpa using he)
  | cons x xs ih =>
    rw [List.cons_append]
    cases hx : x.state with
    | issued =>
      rw [issuedFirst_cons_issued hx] at h ⊢
      exact ih h
    | queued =>
      rw [issuedFirst_cons_queued hx] at h ⊢
      exact List.forall_mem_append.mpr ⟨h, by simpa using he⟩

/-! ### The posted write queue (R143, R151, R152) -/

/-- A state with the given pass-through unit: what is said of the unit alone is said of this state. -/
def Crossing.toState (c : Crossing) : State :=
  { State.reset with
    queue := c.queue, nextSeq := c.nextSeq, held := c.held, places := c.places, drain := c.drain,
    upstream := c.upstream, presented := c.presented, answers := c.answers, resetAsserted := c.resetAsserted,
    pending := c.pending }

theorem State.queueWf_congr {s t : State} (h : t.crossing = s.crossing) (hs : s.QueueWf) : t.QueueWf := by
  change t.crossing.toState.QueueWf
  rw [h]
  exact hs

theorem State.listsWf_congr {s t : State} (h : t.crossing = s.crossing) (hs : s.ListsWf) : t.ListsWf := by
  change t.crossing.toState.ListsWf
  rw [h]
  exact hs

theorem State.queueWf_withDrain {s : State} (h : s.QueueWf) {d : Option PendingDrain}
    (hd : DrainMay s.queue s.drain d) : State.QueueWf { s with drain := d } := by
  obtain ⟨hlen, hseq, hfirst, hcount, hdrain⟩ := h
  refine ⟨hlen, hseq, hfirst, hcount, ?_⟩
  cases hd with
  | stays => exact hdrain
  | cleared => rfl
  | marked id _ hlast => exact List.any_eq_true.mpr ⟨_, List.mem_of_getLast? hlast, by simp⟩

theorem State.issuedCount_issue {s : State} {before after : List QueueEntry} {e : QueueEntry}
    (hqueue : s.queue = before ++ e :: after) (he : e.state = .queued) :
    ((before ++ { e with state := .issued } :: after).countP fun e => e.state == .issued) = s.issuedCount + 1 := by
  simp only [State.issuedCount, hqueue, List.countP_append, List.countP_cons, he]
  simp
  omega

theorem State.Proceeds.queueWf {s t : State} (h : s.Proceeds t) (hs : s.QueueWf) : t.QueueWf := by
  cases h with
  | classifies w => exact State.queueWf_congr (s.quiet_classifyWrite w).crossing hs
  | @issues before after e hqueue hbefore he hroom _ =>
    obtain ⟨hlen, hseq, hfirst, -, hdrain⟩ := hs
    have hcount := State.issuedCount_issue hqueue he
    rw [hqueue] at hlen hseq hfirst hdrain
    refine ⟨by simpa using hlen, ?_, issuedFirst_issue hfirst hbefore he, ?_, by simpa using hdrain⟩
    · rw [seqsFrom_iff] at hseq ⊢
      simpa using hseq
    · exact hcount.trans_le hroom
  | @queues e hroom hnext he =>
    obtain ⟨-, hseq, hfirst, hcount, hdrain⟩ := hs
    refine ⟨by simpa using hroom, seqsFrom_append hseq hnext, issuedFirst_concat hfirst he, ?_, ?_⟩
    · exact (State.issuedCount_append rfl he).trans_le hcount
    · rw [Option.all_eq_true] at hdrain ⊢
      exact fun d hd => by rw [List.any_append, hdrain d hd]; rfl
  | _ => exact hs

/-- The queue in form and, apart from that, the mark of a pending drain among its entries. -/
theorem State.queueWf_iff (s : State) :
    s.QueueWf ↔ State.QueueWf { s with drain := none } ∧ ∀ d, s.drain = some d → ∃ x ∈ s.queue, x.seq = d.mark := by
  simp only [State.QueueWf, Option.all_eq_true, List.any_eq_true, beq_iff_eq, Option.all_none, and_true, and_assoc]
  rfl

theorem State.queueWf_meetDrain {s : State} (h : s.QueueWf) : s.meetDrain.QueueWf := by
  rcases s.meetDrain_cases with ⟨-, e⟩ | ⟨d, -, -, e⟩ <;> rw [e]
  · exact h
  · exact State.queueWf_withDrain h .cleared

/-- A completion takes the head off a queue in form. -/
theorem State.queueWf_headGone {s : State} {e : QueueEntry} {rest : List QueueEntry} (h : s.QueueWf)
    (hqueue : s.queue = e :: rest) (he : e.state = .issued) :
    State.QueueWf { s with queue := rest, drain := none } := by
  obtain ⟨hlen, hseq, hfirst, hcount, -⟩ := h
  rw [State.issuedCount] at hcount
  rw [hqueue] at hlen hseq hfirst hcount
  refine ⟨Nat.le_of_succ_le hlen, (seqsFrom_tail hseq).1, ?_, ?_, rfl⟩
  · rwa [issuedFirst_cons_issued he] at hfirst
  · exact ((List.sublist_cons_self e rest).countP_le).trans hcount

/-- The head leaves on its completion, and a drain whose mark it carries is met (R144, R152). -/
theorem State.queueWf_completed {s : State} (h : s.QueueWf) (st : CompletionStatus) :
    (s.completeHead st).meetDrain.QueueWf := by
  rcases s.completeHead_cases st with ⟨-, he⟩ | ⟨e, rest, hqueue, hissued, he⟩
  · rw [he]
    exact State.queueWf_meetDrain h
  · have hform : State.QueueWf { s.completeHead st with drain := none } := by
      have hgone := State.queueWf_headGone h hqueue hissued
      rw [he]
      exact hgone
    have hrest : (s.completeHead st).queue = rest := by rw [he]
    have hdrain : (s.completeHead st).drain = s.drain := by rw [he]
    rcases (s.completeHead st).meetDrain_cases with ⟨hwaits, hmeet⟩ | ⟨d, -, -, hmeet⟩ <;> rw [hmeet]
    · refine (State.queueWf_iff _).mpr ⟨hform, fun d hd => ?_⟩
      rw [Option.all_eq_true] at hwaits
      obtain ⟨y, hy, hbelow⟩ := List.any_eq_true.mp (hwaits d hd)
      rw [hrest] at hy ⊢
      obtain ⟨x, hx, hmark⟩ := ((State.queueWf_iff s).mp h).2 d (hdrain ▸ hd)
      obtain ⟨hlen, hseq, -⟩ := h
      rw [hqueue] at hx hlen hseq
      rcases List.mem_cons.mp hx with rfl | hx
      · obtain ⟨hfrom, hnext⟩ := seqsFrom_tail hseq
        rw [hnext] at hfrom
        rw [← hmark, seqAtOrBelow_of_behind hfrom (Nat.le_of_succ_le hlen) y hy] at hbelow
        cases hbelow
      · exact ⟨x, hx, hmark⟩
    · exact hform

/-! ### The two lists (R147, R150) -/

theorem length_forwardFirst (t : Tag) (ps : List Place) : (forwardFirst t ps).length = ps.length := by
  induction ps with
  | nil => rfl
  | cons p ps ih =>
    rw [forwardFirst]
    split
    · rfl
    · rw [List.length_cons, ih, List.length_cons]

/-- The release of the oldest held read takes its tag off the tags of the places whose reads are held. -/
theorem heldTags_forwardFirst {t : Tag} {ts : List Tag} {ps : List Place}
    (h : (ps.filter fun p => p.state == .held).map Place.tag = t :: ts) :
    ((forwardFirst t ps).filter fun p => p.state == .held).map Place.tag = ts := by
  induction ps with
  | nil => cases h
  | cons p ps ih =>
    rw [forwardFirst]
    split
    · rename_i hp
      subst hp
      simpa using h
    · rename_i hp
      cases hst : p.state == .held with
      | true =>
        rw [List.filter_cons_of_pos (by simpa using hst), List.map_cons] at h
        refine absurd ?_ hp
        rw [← (List.cons.inj h).1, ← beq_iff_eq.mp hst]
      | false =>
        rw [List.filter_cons_of_neg (by simpa using hst)] at h ⊢
        exact ih h

theorem State.Proceeds.listsWf {s t : State} (h : s.Proceeds t) (hs : s.ListsWf) : t.ListsWf := by
  cases h with
  | classifies w => exact State.listsWf_congr (s.quiet_classifyWrite w).crossing hs
  | releases hheld _ =>
    obtain ⟨hheldLen, hlen, htags⟩ := hs
    rw [hheld] at hheldLen htags
    exact ⟨Nat.le_of_succ_le hheldLen, (length_forwardFirst ..).trans_le hlen, heldTags_forwardFirst htags⟩
  | owes a _ hroom =>
    obtain ⟨hheldLen, -, htags⟩ := hs
    exact ⟨hheldLen, by simpa using hroom, by simpa using htags⟩
  | holds r mark hroom hlist =>
    obtain ⟨-, -, htags⟩ := hs
    exact ⟨by simpa using hlist, by simpa using hroom, by simpa using htags⟩
  | forwards r hroom =>
    obtain ⟨hheldLen, -, htags⟩ := hs
    exact ⟨hheldLen, by simpa using hroom, by simpa using htags⟩
  | _ => exact hs

theorem State.listsWf_respond {s : State} (h : s.ListsWf) (t : Tag) (ret : ReadReturn) : (s.respond t ret).ListsWf := by
  unfold State.respond
  split
  · exact h
  · rename_i ps hmove
    obtain ⟨hheldLen, hlen, htags⟩ := h
    obtain ⟨pre, post, hplaces, -, rfl⟩ := movePlace_eq_some.mp hmove
    rw [hplaces] at hlen htags
    exact ⟨hheldLen, by simpa using hlen, by simpa using htags⟩

theorem State.listsWf_answerOne {s : State} (h : s.ListsWf) (t : Tag) : (s.answerOne t).ListsWf := by
  rcases s.answerOne_cases t with ⟨-, e⟩ | ⟨pre, post, a, hplaces, -, e⟩ <;> rw [e]
  · exact h
  · obtain ⟨hheldLen, hlen, htags⟩ := h
    rw [hplaces] at hlen htags
    refine ⟨hheldLen, ?_, by simpa using htags⟩
    simp only [List.length_append, List.length_cons] at hlen ⊢
    omega

theorem State.listsWf_answerReady {s : State} (h : s.ListsWf) (t : Tag) : (s.answerReady t).ListsWf :=
  repeatStep_keeps (P := State.ListsWf) (fun _ hu => State.listsWf_answerOne hu t) _ s h

/-! ### Every step -/

theorem State.Proceeds.queuesWf {s t : State} (h : s.Proceeds t) (hs : s.QueueWf ∧ s.ListsWf) :
    t.QueueWf ∧ t.ListsWf :=
  ⟨h.queueWf hs.1, h.listsWf hs.2⟩

theorem State.ProceedsTo.queuesWf {s t : State} (h : s.ProceedsTo t) (hs : s.QueueWf ∧ s.ListsWf) :
    t.QueueWf ∧ t.ListsWf :=
  h.keeps (P := fun u => u.QueueWf ∧ u.ListsWf) (fun _ _ hm hu => hm.queuesWf hu) hs

theorem State.RowDoes.queuesWf {s t : State} (h : s.RowDoes t) (hs : s.QueueWf ∧ s.ListsWf) :
    t.QueueWf ∧ t.ListsWf := by
  cases h with
  | quiet hd h =>
    have hqueue := State.queueWf_withDrain hs.1 hd
    exact ⟨State.queueWf_congr h.crossing hqueue, State.listsWf_congr h.crossing hs.2⟩
  | waits q _ => exact hs
  | arrives q _ => exact (State.proceedsTo_settle _).queuesWf hs
  | begins csnLow _ => exact (State.proceedsTo_settle _).queuesWf hs
  | issues _ => exact s.proceedsTo_issueOne.queuesWf hs
  | releases _ => exact s.proceedsTo_releaseOne.queuesWf hs
  | completes st _ =>
    refine (State.proceedsTo_settle _).queuesWf ⟨State.queueWf_completed hs.1 st, ?_⟩
    rw [State.meetDrain_eq, State.completeHead_eq]
    exact hs.2
  | responds tag ret _ =>
    refine (State.proceedsTo_settle _).queuesWf ⟨?_, State.listsWf_answerReady (State.listsWf_respond hs.2 tag ret) tag⟩
    rw [State.answerReady_eq, State.respond_eq]
    exact hs.1
  | answers tag _ =>
    refine ⟨?_, State.listsWf_answerOne hs.2 tag⟩
    rw [State.answerOne_eq]
    exact hs.1
  | meetsDrain _ =>
    refine ⟨State.queueWf_meetDrain hs.1, ?_⟩
    rw [State.meetDrain_eq]
    exact hs.2

/-- Settles O56: a hard reset leaves every queue empty, and each move of another row keeps each of them in form. -/
theorem queuesKept : Obligations.QueuesKept := by
  obtain ⟨-, -, -, -, -, hnotices, hqueue, hlists, -⟩ := invariantsHoldAtReset
  refine ⟨fun s t hs ht => ?_, fun s t hq hl ht => ?_⟩
  · rcases State.step_cases ht with ⟨-, rfl⟩ | ⟨received, rest, -, hreset⟩ | ⟨rest, hrow⟩
    · exact hs
    · cases hreset
      exact hnotices
    · exact hrow.noticesWf hs
  · rcases State.step_cases ht with ⟨-, rfl⟩ | ⟨received, rest, -, hreset⟩ | ⟨rest, hrow⟩
    · exact ⟨hq, hl⟩
    · cases hreset
      exact ⟨hqueue, hlists⟩
    · exact hrow.queuesWf ⟨hq, hl⟩

end Sys2Proof.Machine
end

section
/-! No row but a hard reset reorders, changes or takes back a write (R143, R145): the writes presented, followed by
those QUEUED, only grow at the end. -/

namespace Sys2Proof.Machine

/-- From `s` to `t` writes may have joined behind those that were there. -/
def State.WritesGrow (s t : State) : Prop := ∃ later, t.writeOrder = s.writeOrder ++ later

theorem State.writesGrow_of_same {s t : State} (h : t.writeOrder = s.writeOrder) : s.WritesGrow t :=
  ⟨[], by rw [h, List.append_nil]⟩

theorem State.WritesGrow.trans {s t u : State} (h : s.WritesGrow t) (g : t.WritesGrow u) : s.WritesGrow u := by
  obtain ⟨xs, hx⟩ := h
  obtain ⟨ys, hy⟩ := g
  exact ⟨xs ++ ys, by rw [hy, hx, List.append_assoc]⟩

theorem State.writesGrow_of_crossing {s t : State} (h : t.crossing = s.crossing) : s.WritesGrow t := by
  refine State.writesGrow_of_same ?_
  change t.crossing.toState.writeOrder = s.writeOrder
  rw [h]
  rfl

theorem writesOf_append (xs ys : List DownstreamRequest) : writesOf (xs ++ ys) = writesOf xs ++ writesOf ys :=
  List.filter_append ..

theorem queuedWrites_append (xs ys : List QueueEntry) :
    queuedWrites (xs ++ ys) = queuedWrites xs ++ queuedWrites ys := by
  simp [queuedWrites]

theorem queuedWrites_of_issued {q : List QueueEntry} (h : ∀ x ∈ q, x.state = .issued) : queuedWrites q = [] := by
  rw [queuedWrites, List.filter_eq_nil_iff.mpr fun x hx => by simp [h x hx], List.map_nil]

theorem queuedWrites_cons_queued {e : QueueEntry} (he : e.state = .queued) (es : List QueueEntry) :
    queuedWrites (e :: es) = .write e.addr e.lanes e.tag :: queuedWrites es := by
  rw [queuedWrites, List.filter_cons_of_pos (by simp [he])]
  rfl

theorem queuedWrites_cons_issued {e : QueueEntry} (he : e.state = .issued) (es : List QueueEntry) :
    queuedWrites (e :: es) = queuedWrites es := by
  rw [queuedWrites, List.filter_cons_of_neg (by simp [he])]
  rfl

theorem State.Proceeds.writesGrow {s t : State} (h : s.Proceeds t) : s.WritesGrow t := by
  cases h with
  | classifies w => exact State.writesGrow_of_crossing (s.quiet_classifyWrite w).crossing
  | releases hheld _ =>
    refine State.writesGrow_of_same ?_
    simp only [State.writeOrder, writesOf_append]
    rw [show writesOf [HeldRead.presentedAs _] = [] from rfl, List.append_nil]
  | @issues before after e hqueue hbefore he _ _ =>
    -- The write moves from the front of those QUEUED to the end of those presented.
    refine State.writesGrow_of_same ?_
    simp only [State.writeOrder, hqueue, writesOf_append, queuedWrites_append, queuedWrites_of_issued hbefore,
      queuedWrites_cons_queued he, List.nil_append]
    rw [queuedWrites_cons_issued rfl, List.append_assoc]
    rfl
  | @queues e _ _ he =>
    refine ⟨[.write e.addr e.lanes e.tag], ?_⟩
    simp only [State.writeOrder, queuedWrites_append, queuedWrites_cons_queued he, List.append_assoc]
    rfl
  | forwards r _ =>
    refine State.writesGrow_of_same ?_
    simp only [State.writeOrder, writesOf_append]
    rw [show writesOf [.read r.addr r.length r.tag] = [] from rfl, List.append_nil]
  | _ => exact State.writesGrow_of_same rfl

theorem State.ProceedsTo.writesGrow {s t : State} (h : s.ProceedsTo t) : s.WritesGrow t :=
  h.keeps (P := s.WritesGrow) (fun _ _ hm hu => hu.trans hm.writesGrow) (State.writesGrow_of_same rfl)

theorem State.writesGrow_settle (s : State) : s.WritesGrow s.settle := s.proceedsTo_settle.writesGrow

/-- The entry that leaves on a completion was presented when it was issued. -/
theorem State.writeOrder_completeHead (s : State) (st : CompletionStatus) :
    (s.completeHead st).writeOrder = s.writeOrder := by
  rcases s.completeHead_cases st with ⟨-, h⟩ | ⟨e, rest, hqueue, he, h⟩ <;> rw [h]
  rw [State.writeOrder, State.writeOrder, hqueue, queuedWrites_cons_issued he]

theorem State.RowDoes.writesGrow {s t : State} (h : s.RowDoes t) : s.WritesGrow t := by
  cases h with
  | quiet _ h =>
    refine State.WritesGrow.trans ?_ (State.writesGrow_of_crossing h.crossing)
    exact State.writesGrow_of_same rfl
  | waits q _ => exact State.writesGrow_of_same rfl
  | arrives q _ => exact (State.writesGrow_of_same rfl).trans (State.writesGrow_settle _)
  | begins csnLow _ => exact (State.writesGrow_of_same rfl).trans (State.writesGrow_settle _)
  | issues _ => exact s.proceedsTo_issueOne.writesGrow
  | releases _ => exact s.proceedsTo_releaseOne.writesGrow
  | completes st _ =>
    refine State.WritesGrow.trans (State.writesGrow_of_same ?_) (State.writesGrow_settle _)
    rw [← s.writeOrder_completeHead st, State.meetDrain_eq]
    rfl
  | responds tag ret _ =>
    refine State.WritesGrow.trans (State.writesGrow_of_same ?_) (State.writesGrow_settle _)
    rw [State.answerReady_eq, State.respond_eq]
    rfl
  | answers tag _ =>
    rw [State.answerOne_eq]
    exact State.writesGrow_of_same rfl
  | meetsDrain _ =>
    rw [State.meetDrain_eq]
    exact State.writesGrow_of_same rfl

/-- Settles O59: an issue moves a write from the queued ones to the presented ones, at the same place of the order, and
the taking of a write adds it at the end; nothing else moves one. -/
theorem writesKeepTheirOrder : Obligations.WritesKeepTheirOrder := by
  intro s t ht hno
  rcases State.step_cases ht with ⟨-, rfl⟩ | ⟨received, rest, hpending, -⟩ | ⟨rest, hrow⟩
  · exact State.writesGrow_of_same rfl
  · exact absurd hpending (hno received rest)
  · exact hrow.writesGrow

end Sys2Proof.Machine
end

section
/-! After every step nothing is left to happen (R139, R143, R147, R149, R152): the answers and the drain still wait on
what they waited on, and whatever can be released, issued or taken is. -/

namespace Sys2Proof.Machine

/-! ### The front answers of the tags (R149, R150) -/

/-- The places of a tag, in order. -/
def placesOf (t : Tag) (ps : List Place) : List Place := ps.filter fun p => p.tag == t

theorem placesOf_append (t : Tag) (ps qs : List Place) : placesOf t (ps ++ qs) = placesOf t ps ++ placesOf t qs :=
  List.filter_append ..

theorem placesOf_cons_same (t : Tag) (st : PlaceState) (ps : List Place) :
    placesOf t (⟨t, st⟩ :: ps) = ⟨t, st⟩ :: placesOf t ps :=
  List.filter_cons_of_pos (by simp)

theorem placesOf_cons_other {t tag : Tag} (h : tag ≠ t) (st : PlaceState) (ps : List Place) :
    placesOf t (⟨tag, st⟩ :: ps) = placesOf t ps :=
  List.filter_cons_of_neg (by simpa using h)

theorem placesOf_eq_nil {t : Tag} {ps : List Place} (h : ∀ p ∈ ps, p.tag ≠ t) : placesOf t ps = [] :=
  List.filter_eq_nil_iff.mpr fun p hp => by simpa using h p hp

/-- The places of one tag stand among those that are not of another. -/
theorem placesOf_filter_ne {t t' : Tag} (h : t' ≠ t) (ps : List Place) :
    placesOf t' (ps.filter fun p => p.tag != t) = placesOf t' ps := by
  rw [placesOf, List.filter_filter]
  refine List.filter_congr fun p _ => ?_
  by_cases hp : p.tag = t' <;> simp [hp, h]

/-- A tag's front answer is not ready where the first of its places is not. -/
theorem popReady_eq_none {t : Tag} {ps : List Place} :
    popReady t ps = none ↔ ∀ a, (placesOf t ps).head? ≠ some ⟨t, .ready a⟩ := by
  induction ps with
  | nil => simp [popReady, placesOf]
  | cons p ps ih =>
    obtain ⟨tag, st⟩ := p
    by_cases ht : tag = t
    · subst ht
      rw [placesOf_cons_same]
      cases st <;> simp [popReady]
    · rw [placesOf_cons_other ht, ← ih]
      simp [popReady, ht]

theorem State.frontWaits_iff (s : State) (t : Tag) :
    s.frontWaits t = true ↔ ∀ a, (placesOf t s.places).head? ≠ some ⟨t, .ready a⟩ := by
  rw [State.frontWaits, Option.isNone_iff_eq_none, popReady_eq_none]

/-- Every tag's front answer waits for a read. -/
def FrontsWait (ps : List Place) : Prop := ∀ t a, (placesOf t ps).head? ≠ some ⟨t, .ready a⟩

theorem State.frontsWait_iff (s : State) : (∀ t, s.frontWaits t = true) ↔ FrontsWait s.places :=
  forall_congr' fun t => s.frontWaits_iff t

/-- A place joins at the end: of a read, or of an answer behind an earlier place of its tag. -/
theorem FrontsWait.append {ps : List Place} (h : FrontsWait ps) {p : Place}
    (hp : (∃ a, p.state = .ready a) → ∃ q ∈ ps, q.tag = p.tag) : FrontsWait (ps ++ [p]) := by
  intro t a hhead
  rw [placesOf_append, List.head?_append] at hhead
  cases hfront : (placesOf t ps).head? with
  | some q =>
    rw [hfront] at hhead
    exact h t a (hfront.trans hhead)
  | none =>
    rw [hfront, Option.none_or] at hhead
    have hmem := List.mem_of_mem_head? hhead
    obtain ⟨hpe, -⟩ := List.mem_filter.mp hmem
    rw [List.mem_singleton] at hpe
    obtain ⟨q, hq, htag⟩ := hp ⟨a, by rw [← hpe]⟩
    have hnil := List.head?_eq_none_iff.mp hfront
    have hin : q ∈ placesOf t ps := List.mem_filter.mpr ⟨hq, by rw [htag, ← hpe]; simp⟩
    rw [hnil] at hin
    cases hin

theorem popReady_forwardFirst (t t' : Tag) (ps : List Place) :
    popReady t' (forwardFirst t ps) = none ↔ popReady t' ps = none := by
  induction ps with
  | nil => rfl
  | cons p ps ih =>
    rw [forwardFirst]
    split
    · rename_i hp
      subst hp
      by_cases ht : t = t' <;> simp [popReady, ht]
    · by_cases ht : p.tag = t'
      · cases hst : p.state <;> simp [popReady, ht, hst]
      · simp [popReady, ht, ih]

theorem FrontsWait.forwardFirst {ps : List Place} (h : FrontsWait ps) (t : Tag) :
    FrontsWait (forwardFirst t ps) :=
  fun t' => popReady_eq_none.mp ((popReady_forwardFirst t t' ps).mpr (popReady_eq_none.mpr (h t')))

/-- What the return of a tag's ready answers does: they are returned in order up to the first place of the tag that is
not ready; the places of the other tags stay (R149, R150). -/
theorem State.answers_spec (t : Tag) (k : Nat) (s : State) (hk : s.places.length ≤ k) :
    ∃ (u : State) (ready : List AnswerStatus),
      repeatStep k (fun s => s.answerOne t) s = u ∧ u.answers = s.answers ++ ready.map (fun a => ⟨t, a⟩) ∧
        placesOf t s.places = ready.map (fun a => ⟨t, .ready a⟩) ++ placesOf t u.places ∧
        u.places.filter (fun p => p.tag != t) = s.places.filter (fun p => p.tag != t) ∧ u.frontWaits t = true := by
  induction k generalizing s with
  | zero =>
    have hn : s.places = [] := List.length_eq_zero_iff.mp (Nat.le_zero.mp hk)
    exact ⟨s, [], rfl, by simp, rfl, rfl, by simp [State.frontWaits, hn, popReady]⟩
  | succ k ih =>
    rcases s.answerOne_cases t with ⟨hwaits, he⟩ | ⟨pre, post, a, hplaces, hpre, he⟩
    · exact ⟨s, [], repeatStep_fixed he _, by simp, rfl, rfl, hwaits⟩
    · have hlen : (s.answerOne t).places.length ≤ k := by
        rw [he]
        simp only [hplaces, List.length_append, List.length_cons] at hk ⊢
        omega
      obtain ⟨u, ready, hu, hanswers, hmine, hothers, hwaits⟩ := ih _ hlen
      rw [he] at hanswers hmine hothers
      refine ⟨u, a :: ready, hu, ?_, ?_, ?_, hwaits⟩
      · rw [hanswers]
        simp
      · rw [hplaces, placesOf_append, placesOf_eq_nil hpre, List.nil_append, placesOf_cons_same, List.map_cons,
          List.cons_append, ← hmine, placesOf_append, placesOf_eq_nil hpre, List.nil_append]
      · rw [hothers, hplaces]
        simp

/-- The response to a read and the return of the ready answers of its tag leave every front answer waiting. -/
theorem State.frontsWait_responded {s : State} (h : FrontsWait s.places) (t : Tag) (ret : ReadReturn) :
    FrontsWait ((s.respond t ret).answerReady t).places := by
  obtain ⟨u, ready, hu, -, -, hothers, hwaits⟩ := State.answers_spec t _ (s.respond t ret) (Nat.le_refl _)
  rw [State.answerReady, hu]
  intro t'
  by_cases ht : t' = t
  · subst ht
    exact (u.frontWaits_iff t').mp hwaits
  · have hsame : placesOf t' u.places = placesOf t' s.places := by
      rw [← placesOf_filter_ne ht, hothers, placesOf_filter_ne ht]
      unfold State.respond
      split
      · rfl
      · rename_i ps hmove
        obtain ⟨pre, post, hplaces, -, rfl⟩ := movePlace_eq_some.mp hmove
        rw [hplaces]
        simp only [placesOf_append, placesOf_cons_other (Ne.symm ht)]
    rw [hsame]
    exact h t'

/-! ### What waits goes on waiting (R149, R152) -/

/-- No answer can be returned, and no pending drain is met. -/
def State.Awaits (s : State) : Prop :=
  FrontsWait s.places ∧ ∀ d, s.drain = some d → ∃ e ∈ s.queue, seqAtOrBelow e.seq d.mark = true

theorem State.drainWaits_iff (s : State) :
    (s.drain.all fun d => s.drainWaits d) = true ↔
      ∀ d, s.drain = some d → ∃ e ∈ s.queue, seqAtOrBelow e.seq d.mark = true := by
  simp only [Option.all_eq_true, State.drainWaits, List.any_eq_true]

theorem State.Proceeds.awaits {s t : State} (h : s.Proceeds t) (hs : s.Awaits) : t.Awaits := by
  obtain ⟨hfronts, hdrain⟩ := hs
  cases h with
  | classifies w =>
    rw [State.Awaits, s.onlyTableAndNotices_classifyWrite w]
    exact ⟨hfronts, hdrain⟩
  | releases _ _ => exact ⟨hfronts.forwardFirst _, hdrain⟩
  | @issues before after e hqueue _ _ _ _ =>
    refine ⟨hfronts, fun d hd => ?_⟩
    simpa [hqueue, or_and_right, exists_or] using hdrain d hd
  | queues _ _ _ =>
    refine ⟨hfronts, fun d hd => ?_⟩
    obtain ⟨x, hx, hbelow⟩ := hdrain d hd
    exact ⟨x, List.mem_append_left _ hx, hbelow⟩
  | owes a hneeds _ =>
    refine ⟨hfronts.append fun _ => ?_, hdrain⟩
    obtain ⟨q, hq, htag⟩ := List.any_eq_true.mp hneeds
    exact ⟨q, hq, by simpa using htag⟩
  | holds r mark _ _ => exact ⟨hfronts.append nofun, hdrain⟩
  | forwards r _ => exact ⟨hfronts.append nofun, hdrain⟩
  | _ => exact ⟨hfronts, hdrain⟩

theorem State.awaits_settle {s : State} (h : s.Awaits) : s.settle.Awaits :=
  s.proceedsTo_settle.keeps (fun _ _ hm hu => hm.awaits hu) h

theorem State.settled_iff {s : State} (hs : s.Released) :
    s.Settled ↔ s.canRelease = false ∧ s.canIssue = false ∧ s.canTakeHead = false ∧ s.Awaits := by
  simp only [State.Settled, show s.resetAsserted = false from hs, Bool.false_eq_true, false_or, State.Awaits,
    s.frontsWait_iff, s.drainWaits_iff]

/-! ### Whatever can be released, issued or taken is (R139, R143, R147) -/

theorem State.takeWaiting_blocked (qs : List UpstreamRequest) {s : State} (hr : s.canRelease = false)
    (hi : s.canIssue = false) : (s.takeWaiting qs).canRelease = false ∧ (s.takeWaiting qs).canIssue = false := by
  induction qs generalizing s with
  | nil => exact ⟨hr, hi⟩
  | cons q rest ih =>
    cases hc : s.canTake q with
    | false =>
      rw [State.takeWaiting_stops hc]
      exact ⟨hr, hi⟩
    | true =>
      rw [State.takeWaiting_takes hc]
      obtain ⟨_, _, _, -, -, -, -, -, hr', hi'⟩ := (s.takeRequest q).advance_spec
      exact ih hr' hi'

theorem State.settled_settle {s : State} (h : s.Awaits) : s.settle.Settled := by
  obtain ⟨_, _, _, -, -, -, -, -, hr, hi⟩ := s.advance_spec
  obtain ⟨hr', hi'⟩ := State.takeWaiting_blocked s.advance.upstream hr hi
  obtain ⟨_, -, -, hhead, -⟩ := s.settle_takesWaiting
  obtain ⟨hfronts, hdrain⟩ := State.awaits_settle h
  exact .inr ⟨hr', hi', hhead, (State.frontsWait_iff _).mpr hfronts, (State.drainWaits_iff _).mpr hdrain⟩

/-! ### Every step -/

theorem State.answerOne_waits {s : State} {t : Tag} (h : s.frontWaits t = true) : s.answerOne t = s := by
  rw [State.frontWaits, Option.isNone_iff_eq_none] at h
  rw [State.answerOne, h]

theorem State.meetDrain_waits {s : State}
    (h : ∀ d, s.drain = some d → ∃ e ∈ s.queue, seqAtOrBelow e.seq d.mark = true) : s.meetDrain = s := by
  rcases s.meetDrain_cases with ⟨-, e⟩ | ⟨d, hd, hmet, -⟩
  · exact e
  · rw [(Option.all_eq_true _ _).mp ((State.drainWaits_iff s).mpr h) d hd] at hmet
    cases hmet

theorem State.settled_congr {s t : State} (h : t.crossing = s.crossing) (hs : s.Settled) : t.Settled := by
  change t.crossing.toState.Settled
  rw [h]
  exact hs

theorem State.settled_withDrain {s : State} (h : s.Settled) {d : Option PendingDrain}
    (hd : DrainMay s.queue s.drain d) : State.Settled { s with drain := d } := by
  rcases h with h | ⟨hr, hi, ht, hfronts, hdrain⟩
  · exact .inl h
  · refine .inr ⟨hr, hi, ht, hfronts, ?_⟩
    cases hd with
    | stays => exact hdrain
    | cleared => rfl
    | marked id _ hlast =>
      exact List.any_eq_true.mpr ⟨_, List.mem_of_getLast? hlast, seqAtOrBelow_refl _⟩

/-- A completion meets the drain that no entry keeps waiting any more. -/
theorem State.awaits_completed {s : State} (h : s.Awaits) (st : CompletionStatus) :
    (s.completeHead st).meetDrain.Awaits := by
  have hplaces : (s.completeHead st).meetDrain.places = s.places := by rw [State.meetDrain_eq, State.completeHead_eq]
  refine ⟨hplaces ▸ h.1, ?_⟩
  rcases (s.completeHead st).meetDrain_cases with ⟨hwaits, he⟩ | ⟨d, -, -, he⟩ <;> rw [he]
  · exact (State.drainWaits_iff _).mp hwaits
  · nofun

/-- In the hard-reset state no answer is owed and no drain is pending. -/
theorem State.ResetStands.awaits {s : State} (h : s.ResetStands) (hs : s.resetAsserted = true) : s.Awaits := by
  rw [h hs]
  exact ⟨fun t a => nofun, nofun⟩

theorem State.RowDoes.settled {s t : State} (h : s.RowDoes t) (hreset : s.ResetStands) (hs : s.Settled) :
    t.Settled := by
  cases h with
  | quiet hd h => exact State.settled_congr h.crossing (State.settled_withDrain hs hd)
  | waits q hr => exact .inl hr
  | arrives q hr =>
    obtain ⟨-, -, -, hwaits⟩ := (State.settled_iff hr).mp hs
    exact State.settled_settle hwaits
  | begins csnLow hr => exact State.settled_settle (hreset.awaits hr)
  | issues hr =>
    obtain ⟨-, hi, -⟩ := (State.settled_iff hr).mp hs
    rwa [State.issueOne_blocked hi]
  | releases hr =>
    obtain ⟨hrel, -⟩ := (State.settled_iff hr).mp hs
    rwa [State.releaseOne_blocked hrel]
  | completes st hr =>
    obtain ⟨-, -, -, hwaits⟩ := (State.settled_iff hr).mp hs
    exact State.settled_settle (State.awaits_completed hwaits st)
  | responds tag ret hr =>
    obtain ⟨-, -, -, hfronts, hdrain⟩ := (State.settled_iff hr).mp hs
    refine State.settled_settle ⟨State.frontsWait_responded hfronts tag ret, ?_⟩
    rw [State.answerReady_eq, State.respond_eq]
    exact hdrain
  | answers tag hr =>
    obtain ⟨-, -, -, hfronts, -⟩ := (State.settled_iff hr).mp hs
    rwa [State.answerOne_waits ((s.frontWaits_iff tag).mpr (hfronts tag))]
  | meetsDrain hr =>
    obtain ⟨-, -, -, -, hdrain⟩ := (State.settled_iff hr).mp hs
    rwa [State.meetDrain_waits hdrain]

/-- Settles O58: where nothing is left to happen, a transaction or a tick makes nothing happen, and an event of the
ports does all that it makes possible. -/
theorem settledKept : Obligations.SettledKept := by
  intro s t hreset hs ht
  rcases State.step_cases ht with ⟨-, rfl⟩ | ⟨received, rest, -, hhard⟩ | ⟨rest, hrow⟩
  · exact hs
  · cases hhard
    exact .inl rfl
  · refine hrow.settled (fun hr => ?_) (State.settled_congr rfl hs)
    rw [hreset hr]

end Sys2Proof.Machine
end

section
/-! The events of the pass-through ports that let several things happen: a completion (R144, R147, R152), a read
response (R148 to R150), and the release of RESETN (R187). -/

namespace Sys2Proof.Machine

/-- A row that is not taken while RESETN is asserted, when it is not. -/
theorem next_of_released {s u : State} (hs : s.Released) :
    (if s.resetAsserted = true then .next s else .next u : Host.Outcome State Fault Refusal) = .next u :=
  if_neg (by rw [hs]; decide)

/-- Where nothing can be released or issued, what is left of the first moment is the taking of the waiting requests. -/
theorem State.takesWaiting_of_blocked {s : State} (hr : s.canRelease = false) (hi : s.canIssue = false) :
    s.TakesWaiting s.settle := by
  have h := s.settle_takesWaiting
  rwa [State.advance_blocked hr hi] at h

/-! ### WRITE_COMPLETION (R144, R147, R152) -/

/-- A pending drain is met where no entry at or below its mark is in the queue. -/
theorem State.meetDrain_met {s : State} {d : PendingDrain} (hd : s.drain = some d)
    (h : ∀ x ∈ s.queue, seqAtOrBelow x.seq d.mark = false) :
    s.meetDrain = { s with drain := none, notices := postTo s.notices (.drained d.id) } := by
  rcases s.meetDrain_cases with ⟨hwaits, -⟩ | ⟨d', hd', -, e⟩
  · obtain ⟨x, hx, hbelow⟩ := (State.drainWaits_iff s).mp hwaits d hd
    rw [h x hx] at hbelow
    cases hbelow
  · rw [hd] at hd'
    cases hd'
    exact e

/-- The notice of a completion: WRITE_FAULT on a fault (R144). -/
def faultNotice (st : CompletionStatus) (e : QueueEntry) : List Notice :=
  if st = .fault then [.writeFault e.owner e.addr e.lanes.length e.tag] else []

section
variable {s : State} {e : QueueEntry} {rest : List QueueEntry} (st : CompletionStatus)

theorem State.completeHead_issued (hqueue : s.queue = e :: rest) (he : e.state = .issued) :
    s.completeHead st = { s with queue := rest, notices := postAll s.notices (faultNotice st e) } := by
  rcases s.completeHead_cases st with ⟨hqueued, -⟩ | ⟨e', rest', hqueue', -, h⟩
  · rw [hqueued e rest hqueue] at he
    cases he
  · rw [hqueue] at hqueue'
    cases hqueue'
    exact h

theorem State.completed_eq (hqueue : s.queue = e :: rest) (he : e.state = .issued) :
    (s.completeHead st).meetDrain =
      { s with
        queue := rest
        drain := (s.completeHead st).meetDrain.drain
        notices := (s.completeHead st).meetDrain.notices } := by
  rw [State.meetDrain_eq, State.completeHead_issued st hqueue he]

/-- The completion that meets the drain posts DRAINED behind its own notice (R152). -/
theorem State.completed_met (hqueue : s.queue = e :: rest) (he : e.state = .issued) {d : PendingDrain}
    (hd : s.drain = some d) (h : ∀ x ∈ rest, seqAtOrBelow x.seq d.mark = false) :
    (s.completeHead st).meetDrain.drain = none ∧
      (s.completeHead st).meetDrain.notices = postAll s.notices (faultNotice st e ++ [.drained d.id]) := by
  have hmeet :=
    State.meetDrain_met (s := { s with queue := rest, notices := postAll s.notices (faultNotice st e) }) hd h
  rw [State.completeHead_issued st hqueue he, hmeet, postAll_append]
  exact ⟨rfl, rfl⟩

theorem State.completed_waits (hqueue : s.queue = e :: rest) (he : e.state = .issued)
    (h : ∀ d, s.drain = some d → ∃ x ∈ rest, seqAtOrBelow x.seq d.mark = true) :
    (s.completeHead st).meetDrain.drain = s.drain ∧
      (s.completeHead st).meetDrain.notices = postAll s.notices (faultNotice st e) := by
  rw [State.completeHead_issued st hqueue he, State.meetDrain_waits h]
  exact ⟨rfl, rfl⟩

end

theorem State.completeHead_queued {s : State} (h : ∀ e ∈ s.queue, e.state = .queued) (st : CompletionStatus) :
    s.completeHead st = s := by
  rcases s.completeHead_cases st with ⟨-, he⟩ | ⟨e, rest, hqueue, hissued, -⟩
  · exact he
  · rw [h e (by rw [hqueue]; simp)] at hissued
    cases hissued

/-- Settles O51: the head leaves, the drain is met or waits on, and what the operations of R143 and R147 then do is
`State.advance_spec`. -/
theorem completionRetiresHead : Obligations.CompletionRetiresHead := by
  refine ⟨fun s e rest st hs hqueue he => ?_, fun s st hs hset hqueued => ?_⟩
  · obtain ⟨c, hc⟩ : ∃ c, (s.completeHead st).meetDrain = c := ⟨_, rfl⟩
    have hdone := State.completed_eq st hqueue he
    have hmet := fun d => State.completed_met st hqueue he (d := d)
    have hwaits := State.completed_waits st hqueue he
    rw [hc] at hdone hmet hwaits
    obtain ⟨released, left, k, hheld, hready, hadv, hback, hcount, hrel, hiss⟩ := c.advance_spec
    have hnotices : c.advance.notices = c.notices := by rw [hadv]
    have hdrain : c.advance.drain = c.drain := by rw [hadv]
    have hleft : c.advance.held = left := by rw [hadv]
    have hqueue' : c.queue = rest := by rw [hdone]
    have hready' := fun h hh => hqueue' ▸ (c.heldReady_iff h).mp (hready h hh)
    refine ⟨c.settle, c.advance, released, k, ?_, ?_, ?_, hready', hqueue' ▸ hback, hcount, hrel, hiss, ?_, ?_,
      c.settle_takesWaiting⟩
    · exact (next_of_released hs).trans (by rw [hc])
    · rw [hadv, hdone]
    · rw [hleft, ← hheld, hdone]
    · rw [hdrain, hnotices]
      exact hmet
    · rw [hdrain, hnotices]
      exact hwaits
  · obtain ⟨-, -, -, -, hdrain⟩ := (State.settled_iff hs).mp hset
    have hdone : (s.completeHead st).meetDrain = s := by
      rw [State.completeHead_queued hqueued, State.meetDrain_waits hdrain]
    refine (next_of_released hs).trans ?_
    rw [hdone, State.settle_settled hs hset]

/-! ### READ_RESPONSE and UPSTREAM_ANSWER (R148 to R150) -/

theorem State.answerOne_ready {s : State} {t : Tag} {a : AnswerStatus} {pre post : List Place}
    (hplaces : s.places = pre ++ ⟨t, .ready a⟩ :: post) (hpre : ∀ p ∈ pre, p.tag ≠ t) :
    s.answerOne t = { s with places := pre ++ post, answers := s.answers ++ [⟨t, a⟩] } := by
  rw [State.answerOne, popReady_eq_some.mpr ⟨pre, post, hplaces, hpre, rfl⟩]

/-- The tag's front answer goes first, and then those behind it. -/
theorem State.answerReady_ready {s : State} {t : Tag} {a : AnswerStatus} {pre post : List Place}
    (hplaces : s.places = pre ++ ⟨t, .ready a⟩ :: post) (hpre : ∀ p ∈ pre, p.tag ≠ t) :
    s.answerReady t =
      State.answerReady { s with places := pre ++ post, answers := s.answers ++ [⟨t, a⟩] } t := by
  have hlen : s.places.length = (pre ++ post).length + 1 := by
    rw [hplaces]
    simp [Nat.add_assoc]
  rw [State.answerReady, hlen, repeatStep, State.answerOne_ready hplaces hpre]
  rfl

theorem State.respond_forwarded {s : State} {t : Tag} {pre post : List Place}
    (hplaces : s.places = pre ++ ⟨t, .forwarded⟩ :: post) (hpre : ∀ p ∈ pre, p.tag ≠ t) (ret : ReadReturn) :
    s.respond t ret = { s with places := pre ++ ⟨t, .ready (answerOf ret)⟩ :: post } := by
  have hmove : movePlace t .forwarded (.ready (answerOf ret)) s.places =
      some (pre ++ ⟨t, .ready (answerOf ret)⟩ :: post) :=
    movePlace_eq_some.mpr ⟨pre, post, hplaces, fun hmem => hpre _ hmem rfl, rfl⟩
  rw [State.respond, hmove]

theorem State.respond_unawaited {s : State} {t : Tag} (h : (⟨t, .forwarded⟩ : Place) ∉ s.places) (ret : ReadReturn) :
    s.respond t ret = s := by
  unfold State.respond
  split
  · rfl
  · rename_i ps hmove
    obtain ⟨pre, post, hplaces, -, -⟩ := movePlace_eq_some.mp hmove
    exact absurd (by rw [hplaces]; simp) h

/-- What a response to the first read of its tag does, before waiting requests are taken: it is answered, and the ready
answers behind it up to the next place that is not ready. -/
theorem State.responded_spec {s : State} {t : Tag} {pre post : List Place}
    (hplaces : s.places = pre ++ ⟨t, .forwarded⟩ :: post) (hpre : ∀ p ∈ pre, p.tag ≠ t) (ret : ReadReturn) :
    ∃ (u : State) (ready : List AnswerStatus),
      (s.respond t ret).answerReady t = u ∧ u = { s with answers := u.answers, places := u.places } ∧
        u.answers = s.answers ++ ⟨t, answerOf ret⟩ :: ready.map (fun a => ⟨t, a⟩) ∧
        placesOf t post = ready.map (fun a => ⟨t, .ready a⟩) ++ placesOf t u.places ∧
        (∀ a, (placesOf t u.places).head? ≠ some ⟨t, .ready a⟩) ∧
        u.places.filter (fun p => p.tag != t) = s.places.filter (fun p => p.tag != t) := by
  obtain ⟨v, hv⟩ : ∃ v : State, v = { s with places := pre ++ post, answers := s.answers ++ [⟨t, answerOf ret⟩] } :=
    ⟨_, rfl⟩
  obtain ⟨u, ready, hu, hanswers, hmine, hothers, hwaits⟩ := State.answers_spec t _ v (Nat.le_refl _)
  have hreturned : (s.respond t ret).answerReady t = u := by
    rw [State.respond_forwarded hplaces hpre ret, State.answerReady_ready rfl hpre, ← hv]
    exact hu
  refine ⟨u, ready, hreturned, ?_, ?_, ?_, (u.frontWaits_iff t).mp hwaits, ?_⟩
  · have honly := v.answerReady_eq t
    rw [State.answerReady, hu, hv] at honly
    exact honly
  · rw [hanswers, hv, List.append_assoc]
    rfl
  · rw [← hmine, hv, placesOf_append, placesOf_eq_nil hpre, List.nil_append]
  · rw [hothers, hv, hplaces]
    simp

/-- Settles O52: the response makes the tag's front place ready, the ready answers up to the next read go, and what then
waits upstream is taken, since nothing can be released or issued. -/
theorem readAnswersReturned : Obligations.ReadAnswersReturned := by
  refine ⟨⟨fun s t ret pre post hs hset hplaces hpre => ?_, fun s t ret hs hset hnone => ?_⟩, fun s t hs => ⟨?_, ?_⟩⟩
  · obtain ⟨hrel, hiss, -⟩ := (State.settled_iff hs).mp hset
    obtain ⟨u, ready, hreturned, honly, hanswers, hmine, hwaits, hothers⟩ := State.responded_spec hplaces hpre ret
    have htakes : u.TakesWaiting u.settle := by
      rw [honly]
      exact State.takesWaiting_of_blocked hrel hiss
    refine ⟨u.settle, u, ready, (next_of_released hs).trans (by rw [hreturned]), htakes, ?_, hmine, hwaits, hothers,
      honly⟩
    cases ret <;> exact hanswers
  · obtain ⟨-, -, -, hfronts, -⟩ := (State.settled_iff hs).mp hset
    have hwaits : s.answerOne t = s := State.answerOne_waits ((s.frontWaits_iff t).mpr (hfronts t))
    refine (next_of_released hs).trans ?_
    rw [State.respond_unawaited hnone, State.answerReady, repeatStep_fixed hwaits, State.settle_settled hs hset]
  · rintro pre post a hplaces hpre
    refine (next_of_released hs).trans ?_
    rw [State.answerOne_ready hplaces hpre]
  · intro h
    refine (next_of_released hs).trans ?_
    rcases s.answerOne_cases t with ⟨-, e⟩ | ⟨pre, post, a, hplaces, hpre, -⟩
    · rw [e]
    · obtain ⟨p, hp, htag⟩ := h pre post a hplaces
      exact absurd htag (hpre p hp)

/-! ### RESETN_RELEASE (R187) -/

theorem State.locate_of_vacant {s : State} (h : ∀ n, s.surf n = .vacant) (a : Nat) : s.locate a = none :=
  List.findSome?_eq_none_iff.mpr fun n _ => by rw [h n]; rfl

/-- The state that a release leaves before it takes the requests that wait. -/
def State.released (csnLow : Bool) (s : State) : State := { s with resetAsserted := false, linkAbandoned := csnLow }

section
variable {s : State} (hs : s.resetAsserted = true) (hstands : s.ResetStands) (csnLow : Bool)
include hs hstands

/-- What the release finds: nothing queued, held, owed or presented. -/
theorem State.ResetStands.released_eq :
    s.released csnLow =
      { State.reset with linkAbandoned := csnLow, upstream := s.upstream, pending := s.pending } := by
  rw [State.released, hstands hs]
  rfl

theorem State.ResetStands.released_blocked :
    (s.released csnLow).canRelease = false ∧ (s.released csnLow).canIssue = false := by
  rw [hstands.released_eq hs]
  exact ⟨rfl, rfl⟩

theorem State.ResetStands.released_settled (hu : s.upstream = []) : (s.released csnLow).Settled := by
  rw [hstands.released_eq hs, hu]
  exact .inr ⟨rfl, rfl, rfl, fun _ => rfl, rfl⟩

/-- One plain write waits: the release takes it as a core with nothing waiting takes its arrival (R142, R187). -/
theorem State.ResetStands.released_write {w : WriteRequest} (hu : s.upstream = [.write w])
    (hm : malformedWrite w = false) (ha : anyEnabled w.lanes = true) :
    (s.released csnLow).settle =
      { s with
        resetAsserted := false, linkAbandoned := csnLow, upstream := [],
        queue := [⟨0, w.addr, w.lanes, w.tag, none, .issued⟩], nextSeq := 1,
        presented := [.write w.addr w.lanes w.tag], answers := [⟨w.tag, .posted⟩] } := by
  obtain ⟨idle, hidle⟩ : ∃ idle : State, idle = { State.reset with linkAbandoned := csnLow, pending := s.pending } :=
    ⟨_, rfl⟩
  have hreleased : idle.Released := by rw [hidle]; rfl
  have hsettled : idle.Settled := by rw [hidle]; exact .inr ⟨rfl, rfl, rfl, fun _ => rfl, rfl⟩
  have hnone : idle.upstream = [] := by rw [hidle]; rfl
  have hroom : idle.queue.length < 16 := by rw [hidle]; exact Nat.zero_lt_succ 15
  have hplace : idle.needsPlace w.tag = true → idle.places.length < 32 := by rw [hidle]; nofun
  have hvacant : ∀ n, idle.surf n = .vacant := by rw [hidle]; exact State.reset_surf
  have hclassify : idle.classifyWrite w = (idle, ⟨w.lanes, none⟩) :=
    State.classifyWrite_off fun i _ => State.locate_of_vacant hvacant _
  have harrive : (s.released csnLow).settle = idle.arrive (.write w) := by
    rw [hstands.released_eq hs, hu, hidle]
    rfl
  obtain ⟨t, hexec, ht⟩ := upstreamWritePosted idle w hreleased hsettled hnone hm ha hroom hplace
  have harrived : idle.arrive (.write w) = t := Host.Outcome.next.inj hexec
  rw [harrive, harrived, ht, hclassify, hidle, hstands hs]
  rfl

end

/-- Settles O12: the reset state awaits nothing, so the release takes what waits and leaves nothing to happen. -/
theorem releaseTakesWaitingRequests : Obligations.ReleaseTakesWaitingRequests := by
  intro s csnLow hs hstands
  obtain ⟨hrel, hiss⟩ := hstands.released_blocked hs csnLow
  obtain ⟨-, hreset, hlink⟩ := (s.released csnLow).settle_outside
  refine ⟨(s.released csnLow).settle, if_pos hs, hreset, hlink, State.settled_settle (hstands.awaits hs),
    State.takesWaiting_of_blocked hrel hiss, fun hu => ?_, fun w hu hm ha => hstands.released_write hs csnLow hu hm ha⟩
  exact State.settle_settled rfl (hstands.released_settled hs csnLow hu)

end Sys2Proof.Machine
end

section
/-! The rows that do one thing: SET BYPASS (R153), DRAIN and DRAIN_MET (R151, R152), WRITE_ISSUE and HELD_READ_RELEASE
(R143, R147), and the arrival of a request that is taken at once (R140, R141, R146) or waits (R139). -/

namespace Sys2Proof.Machine

/-! ### SET BYPASS (R153) -/

theorem Item.isRedact_iff (it : Item) : it.isRedact = true ↔ ∃ b, it = .redact b := by
  cases it <;> simp [Item.isRedact]

theorem State.holdsRedact_iff (s : State) : s.holdsRedact = true ↔ s.RedactHeld := by
  simp only [State.holdsRedact, List.any_eq_true, mem_surfaceIds, true_and, Surface.holdsRedact, Bool.and_eq_true,
    bne_iff_ne, Bool.or_eq_true, Item.isRedact_iff, State.RedactHeld]
  refine exists_congr fun n => and_congr_right fun _ => ?_
  constructor
  · rintro (⟨_, hmem, b, rfl⟩ | ⟨_, hmem, b, rfl⟩)
    · exact ⟨b, .inl hmem⟩
    · exact ⟨b, .inr hmem⟩
  · rintro ⟨b, hmem | hmem⟩
    · exact .inl ⟨_, hmem, b, rfl⟩
    · exact .inr ⟨_, hmem, b, rfl⟩

section
variable {f : CommandFrame} {u : State}

theorem setBypass_off (h : switchOf (arg f 0) = some false) :
    setBypass f u = (.done, { u with bypass := false }) := by
  simp only [setBypass, h, Bool.false_and, Bool.false_eq_true, if_false]

theorem setBypass_locked (h : switchOf (arg f 0) = some true) (hr : u.RedactHeld) :
    setBypass f u = (.bare .locked, u) := by
  simp only [setBypass, h, (State.holdsRedact_iff u).mpr hr, Bool.and_self, if_true]

theorem setBypass_on (h : switchOf (arg f 0) = some true) (hr : ¬u.RedactHeld) :
    setBypass f u = (.done, { u with bypass := true }) := by
  rw [← State.holdsRedact_iff, Bool.not_eq_true] at hr
  simp only [setBypass, h, hr, Bool.and_false, Bool.false_eq_true, if_false]

theorem setBypass_badArg (h : switchOf (arg f 0) = none) : setBypass f u = (.bare .badArg, u) := by
  simp only [setBypass, h]

end

/-- Settles O35: SET BYPASS reads its value, and looks for a REDACT item where it is on. -/
theorem setBypassGuarded : Obligations.SetBypassGuarded := by
  intro s f value hs hp
  have harg : arg f 0 = value := by rw [arg, hp]; rfl
  have hrun {c : ResultCode} {t : State}
      (he : setBypass f (s.receive (frameBytes 0x60 f)) = (.bare c, t.receive (frameBytes 0x60 f))) :
      exec (.setBypass f) s = .next (replied s 0x60 f c [] t) :=
    runCommand_answers hs (keepsPort_setBypass f) (by simp [hp]) he
  refine ⟨fun h0 => ?_, fun h1 hr => ?_, fun h1 hr => ?_, fun hbig => ?_⟩
  · exact hrun (t := { s with bypass := false }) (setBypass_off (by rw [harg, h0]; rfl))
  · exact hrun (setBypass_locked (by rw [harg, h1]; rfl) hr)
  · exact hrun (t := { s with bypass := true }) (setBypass_on (by rw [harg, h1]; rfl) hr)
  · exact hrun (setBypass_badArg (by rw [harg]; exact switchOf_none hbig))

/-! ### DRAIN and DRAIN_MET (R151, R152) -/

section
variable {f : CommandFrame} {u : State}

theorem takeDrain_busy (h : u.drain ≠ none) : takeDrain f u = (.bare .busy, u) := by
  obtain ⟨d, hd⟩ := Option.ne_none_iff_exists'.mp h
  simp only [takeDrain, hd]

theorem takeDrain_empty (h : u.drain = none) (hq : u.queue = []) :
    takeDrain f u = (⟨.ok, [0x00, 0x00, 0x00, 0x00, 0x00]⟩, u.post (.drained f.seq)) := by
  simp only [takeDrain, h, hq, List.getLast?_nil]
  rfl

theorem takeDrain_marks {older : List QueueEntry} {newest : QueueEntry} (h : u.drain = none)
    (hq : u.queue = older ++ [newest]) :
    takeDrain f u =
      (⟨.ok, 0x01 :: beBytes 4 newest.seq.toNat⟩, { u with drain := some ⟨newest.seq, f.seq⟩ }) := by
  simp only [takeDrain, h, hq, List.getLast?_concat]
  rfl

end

/-- Settles O36: DRAIN looks for a pending drain and then at the newest entry; DRAIN_MET looks for an entry at or below
the mark. -/
theorem drainMarksAndIsMet : Obligations.DrainMarksAndIsMet := by
  refine ⟨fun s f hs hp => ?_, fun s d hs hd => ⟨fun hgone => ?_, fun hleft => ?_⟩⟩
  · have hrun {c : ResultCode} {p : List Byte} {t : State}
        (he : takeDrain f (s.receive (frameBytes 0x61 f)) = (⟨c, p⟩, t.receive (frameBytes 0x61 f))) :
        exec (.drain f) s = .next (replied s 0x61 f c p t) :=
      runCommand_answers hs (keepsPort_takeDrain f) (by simp [hp]) he
    refine ⟨fun hd => ?_, fun hd hq => ?_, fun older newest hd hq => ?_⟩
    · exact hrun (takeDrain_busy hd)
    · exact hrun (t := s.post (.drained f.seq)) (takeDrain_empty hd hq)
    · exact hrun (t := { s with drain := some ⟨newest.seq, f.seq⟩ }) (takeDrain_marks hd hq)
  · refine (next_of_released hs).trans ?_
    rw [State.meetDrain_met hd hgone]
  · refine (next_of_released hs).trans ?_
    rw [State.meetDrain_waits fun d' hd' => ?_]
    rw [hd] at hd'
    cases hd'
    exact hleft

/-! ### WRITE_ISSUE and HELD_READ_RELEASE (R143, R147) -/

theorem State.issueOne_split {s : State} {before after : List QueueEntry} {e : QueueEntry}
    (hqueue : s.queue = before ++ e :: after) (hbefore : ∀ x ∈ before, x.state = .issued) (he : e.state = .queued) :
    s.issueOne =
      if s.issuedCount < 4 ∧ s.heldBack e = false then
        { s with
          queue := before ++ { e with state := .issued } :: after
          presented := s.presented ++ [.write e.addr e.lanes e.tag] }
      else s := by
  rw [State.issueOne, splitQueued_eq_some.mpr ⟨hqueue, hbefore, he⟩]

theorem State.releaseOne_held {s : State} {h : HeldRead} {rest : List HeldRead} (hheld : s.held = h :: rest) :
    s.releaseOne =
      if s.heldReady h then
        { s with
          held := rest
          places := forwardFirst h.req.tag s.places
          presented := s.presented ++ [h.presentedAs] }
      else s := by
  rw [State.releaseOne, hheld, ← movePlace_forwardFirst]
  rfl

theorem forwardFirst_split {t : Tag} {pre : List Place} (h : ∀ p ∈ pre, p ≠ ⟨t, .held⟩) (post : List Place) :
    forwardFirst t (pre ++ ⟨t, .held⟩ :: post) = pre ++ ⟨t, .forwarded⟩ :: post := by
  induction pre with
  | nil => rw [List.nil_append, forwardFirst, if_pos rfl, List.nil_append]
  | cons p pre ih =>
    obtain ⟨hp, hpre⟩ := List.forall_mem_cons.mp h
    rw [List.cons_append, forwardFirst, if_neg hp, ih hpre, List.cons_append]

/-- Settles O50: each row is its operation where RESETN is released. -/
theorem issueAndRelease : Obligations.IssueAndRelease := by
  refine ⟨⟨fun s hs hall => ?_, fun s hs hnone => ?_⟩, fun s before after e hs hqueue hbefore he => ⟨?_, ?_⟩,
    fun s h rest pre post hs hheld hplaces hpre => ⟨?_, ?_⟩⟩
  · refine (next_of_released hs).trans ?_
    rw [State.issueOne_blocked (State.canIssue_of_allIssued hall)]
  · refine (next_of_released hs).trans ?_
    rw [State.releaseOne, hnone]
  · intro hcan
    refine (next_of_released hs).trans ?_
    rw [State.issueOne_split hqueue hbefore he, if_pos hcan]
  · intro hblocked
    refine (next_of_released hs).trans ?_
    rw [State.issueOne_split hqueue hbefore he, if_neg]
    rintro ⟨hroom, hback⟩
    rcases hblocked with hfull | hheld
    · omega
    · rw [hback] at hheld
      cases hheld
  · intro hready
    refine (next_of_released hs).trans ?_
    rw [State.releaseOne_held hheld, if_pos ((s.heldReady_iff h).mpr hready), hplaces, forwardFirst_split hpre]
    rfl
  · rintro ⟨m, hm, x, hx, hbelow, hover⟩
    refine (next_of_released hs).trans ?_
    rw [State.releaseOne_held hheld, if_neg]
    intro hready
    rcases (s.heldReady_iff h).mp hready m hm x hx with hno | hno
    · rw [hbelow] at hno
      cases hno
    · rw [hover] at hno
      cases hno

/-! ### Requests that wait (R139) -/

theorem State.overlapMark_isSome (s : State) (r : ReadRequest) :
    (s.overlapMark r).isSome = true ↔ ∃ e ∈ s.queue, e.overlapsRead r = true := by
  rw [State.overlapMark, Option.isSome_map, List.getLast?_isSome, ne_eq, List.filter_eq_nil_iff]
  simp

theorem State.mustHold_iff (s : State) (r : ReadRequest) :
    s.mustHold r = true ↔ (∃ e ∈ s.queue, e.overlapsRead r = true) ∨ ∃ h ∈ s.held, h.req.tag = r.tag := by
  rw [State.mustHold, Bool.or_eq_true, State.overlapMark_isSome, State.tagHeld, List.any_eq_true]
  simp only [beq_iff_eq]

/-- A request that cannot be taken, or that finds others waiting, joins them. -/
theorem State.arrive_waits {s : State} {q : UpstreamRequest} (hs : s.Released) (hset : s.Settled)
    (h : s.upstream ≠ [] ∨ s.canTake q = false) : s.arrive q = { s with upstream := s.upstream ++ [q] } := by
  obtain ⟨hr, hi, hhead, hwaits⟩ := (State.settled_iff hs).mp hset
  have hset' : State.Settled { s with upstream := s.upstream ++ [q] } := by
    refine (State.settled_iff (s := { s with upstream := s.upstream ++ [q] }) hs).mpr ⟨hr, hi, ?_, hwaits⟩
    cases hu : s.upstream with
    | nil => exact h.resolve_left (absurd hu)
    | cons q' rest =>
      rw [State.canTakeHead, hu] at hhead
      exact hhead
  unfold State.arrive
  exact (if_neg (by rw [hs]; decide)).trans (State.settle_settled hs hset')

/-- Settles O49: the row of R139's table is the condition under which a request cannot be taken. -/
theorem requestsWait : Obligations.RequestsWait := by
  intro s hs hset
  refine ⟨fun w h => ?_, fun r h => ?_⟩
  · refine congrArg _ (State.arrive_waits hs hset ?_)
    refine h.imp_right fun h => ?_
    rw [← Bool.not_eq_true, State.canTake_write_iff, State.answerFits_iff]
    rintro ⟨hfits, hroom⟩
    rcases h with ⟨hneeds, hfull⟩ | ⟨hm, ha, hfull⟩
    · exact absurd (hfits hneeds) (by omega)
    · exact absurd (hroom hm ha) (by omega)
  · refine congrArg _ (State.arrive_waits hs hset ?_)
    refine h.imp_right fun h => ?_
    rw [← Bool.not_eq_true, State.canTake_read_iff, State.answerFits_iff, State.mustHold_iff]
    rcases h with ⟨hm, hneeds, hfull⟩ | ⟨hm, hfull⟩ | ⟨hm, hfull, hmust⟩
    · rw [if_pos hm]
      exact fun hfits => absurd (hfits hneeds) (by omega)
    · rw [if_neg (by rw [hm]; nofun)]
      exact fun hroom => absurd hroom.1 (by omega)
    · rw [if_neg (by rw [hm]; nofun)]
      exact fun hroom => absurd (hroom.2 hmust) (by omega)

/-! ### Requests that are taken at once and queue nothing (R140, R141, R146) -/

theorem State.withUpstream_same {s : State} {us : List UpstreamRequest} (h : s.upstream = us) :
    s.withUpstream us = s := by
  subst h
  rfl

theorem State.oweAnswer_withUpstream (s : State) (us : List UpstreamRequest) (t : Tag) (a : AnswerStatus) :
    (s.withUpstream us).oweAnswer t a = (s.oweAnswer t a).withUpstream us := by
  rw [State.oweAnswer, State.oweAnswer, apply_ite (State.withUpstream us)]
  rfl

theorem State.acceptRead_withUpstream (s : State) (us : List UpstreamRequest) (r : ReadRequest) :
    (s.withUpstream us).acceptRead r = (s.acceptRead r).withUpstream us := by
  rw [State.acceptRead, State.acceptRead, apply_ite (State.withUpstream us)]
  rfl

theorem State.takeRequest_withUpstream (s : State) (us : List UpstreamRequest) (q : UpstreamRequest) :
    (s.withUpstream us).takeRequest q = (s.takeRequest q).withUpstream us := by
  have hmal (a : Address) (len : Nat) (t : Tag) :
      (s.withUpstream us).takeMalformed a len t = (s.takeMalformed a len t).withUpstream us :=
    State.oweAnswer_withUpstream (s.post (.malformed a len t)) us t .fault
  cases q with
  | write w =>
    simp only [State.takeRequest, hmal, State.enqueueWrite_withUpstream, State.oweAnswer_withUpstream,
      apply_ite (State.withUpstream us)]
  | read r =>
    simp only [State.takeRequest, hmal, State.acceptRead_withUpstream, apply_ite (State.withUpstream us)]

/-- A request that is taken at once and lets nothing be released or issued: its taking is all that happens. -/
theorem State.arrive_takenAlone {s : State} {q : UpstreamRequest} (hs : s.Released) (hset : s.Settled)
    (hu : s.upstream = []) (hc : s.canTake q = true) (hr : (s.takeRequest q).canRelease = false)
    (hi : (s.takeRequest q).canIssue = false) (hsame : (s.takeRequest q).upstream = s.upstream) :
    s.arrive q = s.takeRequest q := by
  have hadv : ((s.takeRequest q).withUpstream [q]).advance = (s.takeRequest q).withUpstream [q] :=
    State.advance_blocked hr hi
  rw [State.arrive_taken hs hset hu hc, State.takeRequest_withUpstream, hadv]
  exact State.withUpstream_same (hsame.trans hu)

/-- The owing of an answer lets nothing be released or issued. -/
theorem State.oweAnswer_moves (s : State) (t : Tag) (a : AnswerStatus) :
    (s.oweAnswer t a).canRelease = s.canRelease ∧ (s.oweAnswer t a).canIssue = s.canIssue ∧
      (s.oweAnswer t a).upstream = s.upstream := by
  rcases s.oweAnswer_cases t a with ⟨-, e⟩ | ⟨-, e⟩ <;> rw [e] <;> exact ⟨rfl, rfl, rfl⟩

/-- A request whose taking owes an answer and does nothing to the queue or the held reads. -/
theorem State.arrive_owes {s u : State} {q : UpstreamRequest} {t : Tag} {a : AnswerStatus} (hs : s.Released)
    (hset : s.Settled) (hu : s.upstream = []) (hc : s.canTake q = true) (htake : s.takeRequest q = u.oweAnswer t a)
    (hr : u.canRelease = s.canRelease) (hi : u.canIssue = s.canIssue) (hsame : u.upstream = s.upstream) :
    s.arrive q = u.oweAnswer t a := by
  obtain ⟨hrel, hiss, -⟩ := (State.settled_iff hs).mp hset
  obtain ⟨hr', hi', hsame'⟩ := u.oweAnswer_moves t a
  rw [← htake] at hr' hi' hsame' ⊢
  exact State.arrive_takenAlone hs hset hu hc (hr'.trans (hr.trans hrel)) (hi'.trans (hi.trans hiss))
    (hsame'.trans hsame)

theorem crossesBlock_iff (a : Address) (len : Nat) :
    crossesBlock a len = true ↔ a.toNat / 4096 ≠ (a.toNat + len - 1) / 4096 :=
  bne_iff_ne

/-! What the taking of a request is, by its kind (R140, R141, R146). -/

theorem State.takeRequest_malformedWrite (s : State) {w : WriteRequest} (hm : malformedWrite w = true) :
    s.takeRequest (.write w) = s.takeMalformed w.addr w.lanes.length w.tag := if_pos hm

theorem State.takeRequest_malformedRead (s : State) {r : ReadRequest} (hm : malformedRead r = true) :
    s.takeRequest (.read r) = s.takeMalformed r.addr r.length r.tag := if_pos hm

theorem State.takeRequest_emptyWrite (s : State) {w : WriteRequest} (hm : ¬malformedWrite w = true)
    (ha : ¬anyEnabled w.lanes = true) : s.takeRequest (.write w) = s.oweAnswer w.tag .posted :=
  (if_neg hm).trans (if_neg ha)

theorem State.takeRequest_read (s : State) {r : ReadRequest} (hm : malformedRead r = false) :
    s.takeRequest (.read r) = s.acceptRead r := if_neg (by rw [hm]; nofun)

/-- Settles O47: each of the three requests is taken at its turn and only owes its answer. -/
theorem malformedAndEmptyRequests : Obligations.MalformedAndEmptyRequests := by
  intro s t hs hset hu hplace
  refine ⟨?_, ?_, ?_⟩
  · rintro w rfl hcross
    have hm : malformedWrite w = true := (crossesBlock_iff _ _).mpr hcross
    have hc : s.canTake (.write w) = true :=
      (s.canTake_write_iff w).mpr ⟨(s.answerFits_iff _).mpr hplace, by rw [hm]; nofun⟩
    have htake := s.takeRequest_malformedWrite hm
    exact congrArg _ (State.arrive_owes (u := s.post _) hs hset hu hc htake rfl rfl rfl)
  · rintro r rfl hcross
    have hm : malformedRead r = true := (crossesBlock_iff _ _).mpr hcross
    have hc : s.canTake (.read r) = true := by
      rw [State.canTake_read_iff, if_pos hm]
      exact (s.answerFits_iff _).mpr hplace
    have htake := s.takeRequest_malformedRead hm
    exact congrArg _ (State.arrive_owes (u := s.post _) hs hset hu hc htake rfl rfl rfl)
  · rintro w rfl hblock hdisabled
    have hm : ¬malformedWrite w = true := fun h => (crossesBlock_iff _ _).mp h hblock
    have ha : ¬anyEnabled w.lanes = true := by simpa [anyEnabled] using hdisabled
    have hc : s.canTake (.write w) = true :=
      (s.canTake_write_iff w).mpr ⟨(s.answerFits_iff _).mpr hplace, fun _ h => absurd h ha⟩
    have htake := s.takeRequest_emptyWrite hm ha
    exact congrArg _ (State.arrive_owes (u := s) hs hset hu hc htake rfl rfl rfl)

/-! ### UPSTREAM_READ (R146) -/

theorem State.overlapMark_none {s : State} {r : ReadRequest} (h : ∀ e ∈ s.queue, e.overlapsRead r = false) :
    s.overlapMark r = none := by
  rw [State.overlapMark, List.filter_eq_nil_iff.mpr fun e he => by rw [h e he]; decide]
  rfl

theorem State.overlapMark_newest {s : State} {r : ReadRequest} {older newer : List QueueEntry} {e : QueueEntry}
    (hqueue : s.queue = older ++ e :: newer) (he : e.overlapsRead r = true)
    (hnewer : ∀ y ∈ newer, y.overlapsRead r = false) : s.overlapMark r = some e.seq := by
  have hrest : newer.filter (fun y => y.overlapsRead r) = [] :=
    List.filter_eq_nil_iff.mpr fun y hy => by rw [hnewer y hy]; decide
  have hover : (e :: newer).filter (fun y => y.overlapsRead r) = [e] := by
    rw [← hrest]
    exact List.filter_cons_of_pos he
  rw [State.overlapMark, hqueue, List.filter_append, hover, List.getLast?_concat]
  rfl

/-- A read that an entry makes wait is not ready when it is taken: the entry that its mark names overlaps it. -/
theorem State.not_heldReady_taken {s : State} {r : ReadRequest} (h : ∃ e ∈ s.queue, e.overlapsRead r = true)
    (n : SeqNumber) : s.heldReady ⟨r, s.overlapMark r, n⟩ = false := by
  obtain ⟨m, hm⟩ := Option.isSome_iff_exists.mp ((s.overlapMark_isSome r).mpr h)
  obtain ⟨e, hlast, hseq⟩ := Option.map_eq_some_iff.mp hm
  obtain ⟨he, hover⟩ := List.mem_filter.mp (List.mem_of_getLast? hlast)
  rw [← Bool.not_eq_true, State.heldReady_iff]
  intro hready
  rcases hready m hm e he with hno | hno
  · rw [← hseq, seqAtOrBelow_refl] at hno
    cases hno
  · rw [hover] at hno
    cases hno

section
variable {s t : State} {x : HeldRead} (hq : t.queue = s.queue) (hh : t.held = s.held ++ [x])
include hq hh

/-- One more held read lets no entry be issued. -/
theorem State.canIssue_of_heldAppend (h : s.canIssue = false) : t.canIssue = false := by
  rw [← Bool.not_eq_true, State.canIssue_iff] at h ⊢
  rintro ⟨before, e, after, hqueue, hbefore, he, hroom, hback⟩
  refine h ⟨before, e, after, hq.symm.trans hqueue, hbefore, he, ?_, ?_⟩
  · rwa [State.issuedCount, hq] at hroom
  · rw [State.heldBack, hh, List.any_append, Bool.or_eq_false_iff] at hback
    exact hback.1

/-- One more held read is not released where it waits behind another or is not ready itself. -/
theorem State.canRelease_of_heldAppend (h : s.canRelease = false) (hx : s.held = [] → s.heldReady x = false) :
    t.canRelease = false := by
  have hready (y : HeldRead) : t.heldReady y = s.heldReady y := by
    rw [Bool.eq_iff_iff, State.heldReady_iff, State.heldReady_iff, hq]
  rw [State.canRelease, hh]
  cases hs : s.held with
  | nil => exact (hready x).trans (hx hs)
  | cons y ys =>
    rw [State.canRelease, hs] at h
    exact (hready y).trans h

end

section
variable {s : State} {r : ReadRequest} (hs : s.Released) (hset : s.Settled) (hu : s.upstream = [])
  (hm : malformedRead r = false) (hroom : s.places.length < 32)
include hs hset hu hm hroom

theorem State.arrive_read_forwarded (hmust : ¬s.mustHold r = true) :
    s.arrive (.read r) =
      { s with
        places := s.places ++ [⟨r.tag, .forwarded⟩]
        presented := s.presented ++ [.read r.addr r.length r.tag] } := by
  obtain ⟨hrel, hiss, -⟩ := (State.settled_iff hs).mp hset
  have htake : s.takeRequest (.read r) = _ := (s.takeRequest_read hm).trans (if_neg hmust)
  have hc : s.canTake (.read r) = true := by
    rw [State.canTake_read_iff, if_neg (by rw [hm]; nofun)]
    exact ⟨hroom, fun h => absurd h hmust⟩
  rw [State.arrive_takenAlone hs hset hu hc ?_ ?_ ?_, htake]
  · rfl
  · rw [htake]
    exact hrel
  · rw [htake]
    exact hiss
  · rw [htake]
    rfl

theorem State.arrive_read_held (hmust : s.mustHold r = true) (hlist : s.held.length < 4) :
    s.arrive (.read r) =
      { s with
        places := s.places ++ [⟨r.tag, .held⟩]
        held := s.held ++ [⟨r, s.overlapMark r, s.nextSeq⟩] } := by
  obtain ⟨hrel, hiss, -⟩ := (State.settled_iff hs).mp hset
  have htake : s.takeRequest (.read r) = _ := (s.takeRequest_read hm).trans (if_pos hmust)
  have hc : s.canTake (.read r) = true := by
    rw [State.canTake_read_iff, if_neg (by rw [hm]; nofun)]
    exact ⟨hroom, fun _ => hlist⟩
  have hready : s.held = [] → s.heldReady ⟨r, s.overlapMark r, s.nextSeq⟩ = false := by
    intro hnone
    refine State.not_heldReady_taken (((s.mustHold_iff r).mp hmust).resolve_right ?_) _
    rw [hnone]
    nofun
  rw [State.arrive_takenAlone hs hset hu hc ?_ ?_ ?_, htake]
  · rw [htake]
    exact State.canRelease_of_heldAppend (s := s) rfl rfl hrel hready
  · rw [htake]
    exact State.canIssue_of_heldAppend (s := s) rfl rfl hiss
  · rw [htake]

end

/-- Settles O48: the read is held exactly where an entry overlaps it or a read of its tag is held, under the mark of the
newest overlapping entry. -/
theorem upstreamReadForwardedOrHeld : Obligations.UpstreamReadForwardedOrHeld := by
  intro s r hs hset hu hm hroom
  refine ⟨fun hfree htag => ?_, fun hfree htag hlist => ?_, fun older e newer hqueue he hnewer hlist => ?_⟩
  · refine congrArg _ (State.arrive_read_forwarded hs hset hu hm hroom ?_)
    rw [State.mustHold_iff]
    rintro (⟨e, he, hover⟩ | ⟨h, hh, hsame⟩)
    · rw [hfree e he] at hover
      cases hover
    · exact htag h hh hsame
  · refine congrArg _ ((State.arrive_read_held hs hset hu hm hroom ((s.mustHold_iff r).mpr (.inr htag)) hlist).trans ?_)
    rw [State.overlapMark_none hfree]
  · have hmust : s.mustHold r = true := (s.mustHold_iff r).mpr (.inl ⟨e, by rw [hqueue]; simp, he⟩)
    refine congrArg _ ((State.arrive_read_held hs hset hu hm hroom hmust hlist).trans ?_)
    rw [State.overlapMark_newest hqueue he hnewer]

end Sys2Proof.Machine
end

section
/-! The notice queue: NEXT NOTICE and ATTN (R164, R166), a notice record in its bytes (R183), and what a post does to
the queue (R161, R162). -/

namespace Sys2Proof.Machine

/-! ### NEXT NOTICE and ATTN (R164, R166) -/

section
variable {u : State}

theorem nextNotice_empty (h : u.notices = []) : nextNotice u = (.bare .empty, u) := by
  simp only [nextNotice, h]

theorem nextNotice_oldest {n : Notice} {rest : List Notice} (h : u.notices = n :: rest) :
    nextNotice u = (⟨.ok, byteOf rest.length :: noticeBytes n⟩, { u with notices := rest }) := by
  simp only [nextNotice, h]

end

theorem nextNotice_replies (s : State) (f : CommandFrame) (hs : s.Released) (hp : f.payload = []) :
    (s.notices = [] → exec (.nextNotice f) s = .next (replied s 0x70 f .empty [] s)) ∧
      ∀ n rest, s.notices = n :: rest →
        exec (.nextNotice f) s = .next
          (replied s 0x70 f .ok (byteOf rest.length :: noticeBytes n) { s with notices := rest }) := by
  have hrun {c : ResultCode} {p : List Byte} {t : State}
      (he : nextNotice (s.receive (frameBytes 0x70 f)) = (⟨c, p⟩, t.receive (frameBytes 0x70 f))) :
      exec (.nextNotice f) s = .next (replied s 0x70 f c p t) :=
    runCommand_answers hs keepsPort_nextNotice (by simp [hp]) he
  exact ⟨fun hnone => hrun (nextNotice_empty hnone),
    fun n rest hsome => hrun (t := { s with notices := rest }) (nextNotice_oldest hsome)⟩

theorem State.attn_iff (s : State) : s.attn = true ↔ s.notices ≠ [] := by
  rw [State.attn, Bool.not_eq_true', ← Bool.not_eq_true, List.isEmpty_iff]

/-! ### A notice record in its bytes (R183) -/

/-- A notice about no surface: two presence bytes that say no, and five bytes 00H behind them. -/
theorem ownerBytes_none : ownerBytes none = [0x00, 0x00, 0x00, 0x00, 0x00, 0x00, 0x00] := rfl

theorem ownerBytes_some (n : SurfaceId) (number : FrameNumber) :
    ownerBytes (some ⟨n, number⟩) = [0x01, byteOf n.val, 0x01] ++ beBytes 4 number.toNat := rfl

/-- Settles O37: the command by what the queue holds, ATTN, and the bytes of each kind of notice, which are the kind,
what the notice is about, and the fields of the kind. -/
theorem nextNoticeRemovesOldest : Obligations.NextNoticeRemovesOldest := by
  refine ⟨nextNotice_replies, State.attn_iff, fun n number => ?_, ?_⟩
  · rw [← ownerBytes_some n number]
    exact ⟨fun b => rfl, rfl, rfl, fun forced => rfl, fun addr length tag => rfl⟩
  · rw [← ownerBytes_none]
    exact ⟨fun id => rfl, fun addr length tag => ⟨rfl, rfl⟩, rfl, fun dropped => rfl⟩

/-! ### What a post does to the queue (R161, R162) -/

theorem any_isLost_eq_false {q : List Notice} (h : ∀ m ∈ q, m.isLost = false) : q.any Notice.isLost = false :=
  List.any_eq_false.mpr fun m hm => by rw [h m hm]; decide

/-- The count of a LOST notice rises by 1 and stays at 65535. -/
theorem droppedCount_raised (d : Nat) : min (d + 1) 65535 = if d < 65535 then d + 1 else 65535 := by
  split <;> omega

/-- Settles O38: a post writes the queue alone, by whether it holds a LOST notice and by its room. -/
theorem postsFollowTheQueue : Obligations.PostsFollowTheQueue := by
  refine fun s n => ⟨fun hnone hroom => ?_, fun hnone hfull => ?_, fun older d hq hnone => ?_⟩
  · rw [State.post_eq, postTo_append _ n (any_isLost_eq_false hnone) (by omega)]
  · rw [State.post_eq, postTo_drop _ n (any_isLost_eq_false hnone) (by omega)]
  · rw [State.post_eq, hq, postTo_count older d n (any_isLost_eq_false hnone), droppedCount_raised]

end Sys2Proof.Machine
end

section
/-! A transaction of the configuration port as bits and as bytes (R170 to R174, R180): which frames are bad, and what a
good frame is read back as. -/

namespace Sys2Proof.Machine

/-! ### Serial bits (R170) -/

theorem byteOfBits_getLsbD (b : Byte) :
    byteOfBits (b.getLsbD 7) (b.getLsbD 6) (b.getLsbD 5) (b.getLsbD 4) (b.getLsbD 3) (b.getLsbD 2) (b.getLsbD 1)
      (b.getLsbD 0) = b := by
  revert b; decide

theorem bytesOfBits_cons (b : Byte) (bits : List Bool) : bytesOfBits (bitsOfByte b ++ bits) = b :: bytesOfBits bits :=
  congrArg (· :: bytesOfBits bits) (byteOfBits_getLsbD b)

theorem tailOfBits_cons (b : Byte) (bits : List Bool) : tailOfBits (bitsOfByte b ++ bits) = tailOfBits bits := rfl

/-- Fewer than eight bits hold no complete byte. -/
theorem bits_incomplete {tail : List Bool} (h : tail.length < 8) : bytesOfBits tail = [] ∧ tailOfBits tail = tail := by
  match tail, h with
  | [], _ | [_], _ | [_, _], _ | [_, _, _], _ | [_, _, _, _], _ | [_, _, _, _, _], _ | [_, _, _, _, _, _], _
  | [_, _, _, _, _, _, _], _ => exact ⟨rfl, rfl⟩
  | _ :: _ :: _ :: _ :: _ :: _ :: _ :: _ :: _, h => simp at h; omega

theorem bits_split (bytes : List Byte) {tail : List Bool} (h : tail.length < 8) :
    bytesOfBits (bitsOfBytes bytes ++ tail) = bytes ∧ tailOfBits (bitsOfBytes bytes ++ tail) = tail := by
  induction bytes with
  | nil => exact bits_incomplete h
  | cons b bs ih =>
    obtain ⟨hbytes, htail⟩ := ih
    rw [bitsOfBytes, List.append_assoc, bytesOfBits_cons, tailOfBits_cons, hbytes, htail]
    exact ⟨rfl, rfl⟩

theorem decodeTransactionBits_append (bytes : List Byte) {tail : List Bool} (h : tail.length < 8) :
    decodeTransactionBits (bitsOfBytes bytes ++ tail) = decodeTransaction bytes tail := by
  obtain ⟨hbytes, htail⟩ := bits_split bytes h
  rw [decodeTransactionBits, hbytes, htail]

/-! ### Which frames are bad (R171 to R173) -/

/-- R173's conditions on the complete bytes of a transaction: shorter than its CRC byte, a length byte above 64, or a
CRC byte that differs from the computed CRC. -/
def FrameBad (bytes : List Byte) : Prop :=
  bytes.length < 3 ∨ 64 < (bytes.getD 2 0).toNat ∨ bytes.length < 4 + (bytes.getD 2 0).toNat ∨
    bytes.getD (3 + (bytes.getD 2 0).toNat) 0 ≠ crc (bytes.take (3 + (bytes.getD 2 0).toNat))

/-- A frame that reaches its length byte, which is at most 64, is bad by what stands behind the payload. -/
theorem frameBad_iff {number seq len : Byte} {rest : List Byte} (hlen : len.toNat ≤ 64) :
    FrameBad (number :: seq :: len :: rest) ↔
      (rest.drop len.toNat).head? ≠ some (crc (number :: seq :: len :: rest.take len.toNat)) := by
  have htake : (number :: seq :: len :: rest).take (3 + len.toNat) = number :: seq :: len :: rest.take len.toNat := by
    rw [Nat.add_comm]; rfl
  have hget : (number :: seq :: len :: rest).getD (3 + len.toNat) 0 = rest.getD len.toNat 0 := by
    rw [Nat.add_comm]; rfl
  rw [FrameBad, show (number :: seq :: len :: rest).getD 2 0 = len from rfl, htake, hget, List.head?_drop,
    List.getD_eq_getElem?_getD]
  by_cases hl : len.toNat < rest.length
  · rw [List.getElem?_eq_getElem hl, Option.getD_some, Ne, Ne, Option.some_inj]
    simp only [List.length_cons]
    refine ⟨fun h => ?_, fun h => .inr (.inr (.inr h))⟩
    rcases h with h | h | h | h
    · omega
    · omega
    · omega
    · exact h
  · rw [List.getElem?_eq_none (by omega)]
    simp only [List.length_cons]
    exact iff_of_true (.inr (.inr (.inl (by omega)))) nofun

theorem judgeFrame_frameBytes (number : Byte) {f : CommandFrame} (h : f.payload.length ≤ 64) :
    judgeFrame f.tail (frameBytes number f) = .good number f := by
  have hlen : (BitVec.ofNat 8 f.payload.length).toNat = f.payload.length := by
    rw [BitVec.toNat_ofNat, Nat.mod_eq_of_lt (by omega)]
  simp only [frameBytes, List.cons_append, judgeFrame, hlen, Config.payloadMax]
  rw [if_neg (by omega), List.take_left, List.drop_left]
  simp only [if_true]

theorem frameWf_iff (f : CommandFrame) : f.wf = true ↔ f.payload.length ≤ 64 ∧ f.tail.length < 8 := by
  simp [CommandFrame.wf, tailWf]

/-- Bytes with the right CRC byte behind the payload are those of a frame (R180). -/
theorem eq_frameBytes {number seq len check : Byte} {rest extra : List Byte} (tail : List Bool)
    (hdrop : rest.drop len.toNat = check :: extra)
    (hcheck : check = crc (number :: seq :: len :: rest.take len.toNat)) :
    number :: seq :: len :: rest = frameBytes number ⟨seq, rest.take len.toNat, extra, tail⟩ := by
  have hroom : len.toNat ≤ rest.length := by
    have hlength := congrArg List.length hdrop
    simp only [List.length_drop, List.length_cons] at hlength
    omega
  simp only [frameBytes, List.length_take, Nat.min_eq_left hroom, BitVec.ofNat_toNat, BitVec.setWidth_eq,
    List.cons_append, ← hcheck, ← hdrop, List.take_append_drop]

/-- The judging of a transaction, case by case: a good one has exactly the bytes of its frame. -/
theorem judgeFrame_cases (tail : List Bool) (bytes : List Byte) :
    (bytes = [] ∧ judgeFrame tail bytes = .empty) ∨
      (bytes ≠ [] ∧ FrameBad bytes ∧ ∃ number seq, judgeFrame tail bytes = .bad number seq) ∨
      ∃ number f, f.tail = tail ∧ f.payload.length ≤ 64 ∧ bytes = frameBytes number f ∧ ¬FrameBad bytes ∧
        judgeFrame tail bytes = .good number f := by
  match bytes with
  | [] => exact .inl ⟨rfl, rfl⟩
  | [number] => exact .inr (.inl ⟨nofun, .inl (by simp), _, _, rfl⟩)
  | [number, seq] => exact .inr (.inl ⟨nofun, .inl (by simp), _, _, rfl⟩)
  | number :: seq :: len :: rest =>
    by_cases hlen : 64 < len.toNat
    · exact .inr (.inl ⟨nofun, .inr (.inl hlen), _, _, if_pos hlen⟩)
    · have hbad := frameBad_iff (number := number) (seq := seq) (rest := rest) (Nat.not_lt.mp hlen)
      cases hdrop : rest.drop len.toNat with
      | nil =>
        refine .inr (.inl ⟨nofun, hbad.mpr (by rw [hdrop]; nofun), number, seq, ?_⟩)
        simp only [judgeFrame, if_neg hlen, hdrop]
      | cons check extra =>
        rw [hdrop, List.head?_cons, Ne, Option.some_inj] at hbad
        by_cases hcheck : check = crc (number :: seq :: len :: rest.take len.toNat)
        · have hframe := eq_frameBytes tail hdrop hcheck
          have hfits : (rest.take len.toNat).length ≤ 64 := (List.length_take_le _ _).trans (Nat.not_lt.mp hlen)
          refine .inr (.inr ⟨number, _, rfl, hfits, hframe, fun h => hbad.mp h hcheck, ?_⟩)
          rw [hframe]
          exact judgeFrame_frameBytes number hfits
        · refine .inr (.inl ⟨nofun, hbad.mpr hcheck, number, seq, ?_⟩)
          simp only [judgeFrame, if_neg hlen, hdrop, if_neg hcheck]

theorem judgeFrame_bad (tail : List Bool) {bytes : List Byte} (hne : bytes ≠ []) (hbad : FrameBad bytes) :
    ∃ number seq, judgeFrame tail bytes = .bad number seq := by
  rcases judgeFrame_cases tail bytes with ⟨h, -⟩ | ⟨-, -, h⟩ | ⟨_, _, -, -, -, h, -⟩
  · exact absurd h hne
  · exact h
  · exact absurd hbad h

theorem isBadFrame_iff (bytes : List Byte) : isBadFrame bytes = true ↔ bytes ≠ [] ∧ FrameBad bytes := by
  rw [isBadFrame]
  rcases judgeFrame_cases [] bytes with ⟨hnil, h⟩ | ⟨hne, hbad, _, _, h⟩ | ⟨_, _, -, -, -, hgood, h⟩ <;> rw [h]
  · exact iff_of_false nofun fun hne => hne.1 hnil
  · exact iff_of_true rfl ⟨hne, hbad⟩
  · exact iff_of_false nofun fun hbad => hgood hbad.2

end Sys2Proof.Machine
end

section
/-! The rows of the catalogue and their transactions (R171, R173, R174, R180), and the pin edges that carry one
(R170). -/

namespace Sys2Proof.Machine

/-! ### The rows of the catalogue (R174, R180, R182) -/

/-- What every row of the catalogue is under its number: the frame of that number, and, but for NOP, a body that runs
where the payload has the row's length. -/
structure RowUnder (number : Byte) (row : CommandFrame → Instr) (f : CommandFrame) : Prop where
  wf      : (row f).wf = f.wf
  encoded : encodeTransaction (row f) = some (frameBytes number f, f.tail)
  runs    : number ≠ 0x00 →
    ∃ body : State → Reply × State, ∀ s, exec (row f) s = runCommand number f (payloadFits number f) body s

theorem rowUnder_of_catalogue {number : Byte} {row : CommandFrame → Instr} (hr : catalogue number = some row)
    (f : CommandFrame) : RowUnder number row f := by
  obtain ⟨m, hm⟩ : ∃ m, number.toNat = m := ⟨_, rfl⟩
  obtain rfl : number = BitVec.ofNat 8 m := by rw [← hm, BitVec.ofNat_toNat, BitVec.setWidth_eq]
  unfold catalogue at hr
  rw [hm] at hr
  split at hr <;> cases hr
  case h_1 => exact ⟨rfl, rfl, fun hn => absurd rfl hn⟩
  case h_2 => exact ⟨rfl, rfl, fun _ => ⟨fun s => (.done, s.softReset), fun _ => rfl⟩⟩
  all_goals exact ⟨rfl, rfl, fun _ => ⟨_, fun _ => rfl⟩⟩

/-! ### Decoding and encoding (R171, R173, R174) -/

theorem decodeTransaction_row {number : Byte} {row : CommandFrame → Instr} {f : CommandFrame} {bytes : List Byte}
    {tail : List Bool} (he : some (frameBytes number f, f.tail) = some (bytes, tail)) (hw : f.wf = true)
    (hr : catalogue number = some row) : decodeTransaction bytes tail = row f := by
  cases he
  obtain ⟨hlen, -⟩ := (frameWf_iff f).mp hw
  rw [decodeTransaction, judgeFrame_frameBytes number hlen]
  simp only [hr]

theorem decodeTransaction_badCommand {number : Byte} {f : CommandFrame} (hw : f.wf = true)
    (hr : catalogue number = none) : decodeTransaction (frameBytes number f) f.tail = .badCommand number f := by
  obtain ⟨hlen, -⟩ := (frameWf_iff f).mp hw
  rw [decodeTransaction, judgeFrame_frameBytes number hlen]
  simp only [hr]

theorem decodeTransaction_badFrame {bytes : List Byte} (tail : List Bool) (hne : bytes ≠ []) (hbad : FrameBad bytes) :
    decodeTransaction bytes tail = .badFrame ⟨bytes, tail⟩ := by
  obtain ⟨number, seq, hjudged⟩ := judgeFrame_bad tail hne hbad
  rw [decodeTransaction, hjudged]

theorem decodeTransaction_encoded {i : Instr} {bytes : List Byte} {tail : List Bool} (hw : i.wf = true)
    (he : encodeTransaction i = some (bytes, tail)) : decodeTransaction bytes tail = i := by
  cases i with
  | nop f | softReset f | defineSurface f | activateSurface f | retireSurface f | releaseSurface f | readSurface f
  | addItem f | setItem f | removeItem f | moveItem f | clearStaged f | cloneActive f | selectPage f | readItem f
  | commit f | cancelCommit f | writeGlyph f | writePageHeader f | readGlyph f | writeString f | readString f
  | setClock f | holdClock f | adjustClock f | readClock f | setBypass f | drain f | readStatus f | nextNotice f =>
    exact decodeTransaction_row he hw rfl
  | badFrame raw =>
    cases he
    simp only [Instr.wf, Bool.and_eq_true, Bool.or_eq_true, List.isEmpty_iff, isBadFrame_iff] at hw
    obtain ⟨hnil | ⟨hne, hbad⟩, -⟩ := hw
    · obtain ⟨raw, tail⟩ := raw
      cases hnil
      rfl
    · exact decodeTransaction_badFrame raw.tail hne hbad
  | badCommand number f =>
    cases he
    simp only [Instr.wf, Bool.and_eq_true, Option.isNone_iff_eq_none] at hw
    obtain ⟨hr, hf⟩ := hw
    exact decodeTransaction_badCommand hf hr
  | hardReset _ | resetnRelease _ | tick | forcedCommit _ | forcedRetirement _ | upstreamWrite _ | upstreamRead _
  | writeIssue | writeCompletion _ | heldReadRelease | readResponse _ _ | upstreamAnswer _ | drainMet => cases he

/-- Every transaction is read as a well-formed row that stands for exactly its bytes and bits. -/
theorem encodeTransaction_decoded (bytes : List Byte) {tail : List Bool} (ht : tail.length < 8) :
    (decodeTransaction bytes tail).wf = true ∧
      encodeTransaction (decodeTransaction bytes tail) = some (bytes, tail) := by
  have htail : tailWf tail = true := decide_eq_true ht
  rcases judgeFrame_cases tail bytes with ⟨rfl, -⟩ | ⟨hne, hbad, -⟩ | ⟨number, f, rfl, hlen, rfl, -⟩
  · exact ⟨htail, rfl⟩
  · rw [decodeTransaction_badFrame tail hne hbad]
    refine ⟨?_, rfl⟩
    rw [Instr.wf, (isBadFrame_iff bytes).mpr ⟨hne, hbad⟩, htail, Bool.or_true]
    rfl
  · have hf : f.wf = true := (frameWf_iff f).mpr ⟨hlen, ht⟩
    cases hr : catalogue number with
    | none =>
      rw [decodeTransaction_badCommand hf hr, Instr.wf, hr, hf]
      exact ⟨rfl, rfl⟩
    | some row =>
      have hrow := rowUnder_of_catalogue hr f
      rw [decodeTransaction_row rfl hf hr]
      exact ⟨hrow.wf.trans hf, hrow.encoded⟩

/-! The CRCs of the two reference frames (R172) -/

theorem crc_nop : crc [0x00, 0x00, 0x00] = 0x00 := by simp [crc, crcByte, crcShift, Nat.repeat]

theorem crc_readStatus : crc [0x62, 0x01, 0x00] = 0x06 := by simp [crc, crcByte, crcShift, Nat.repeat]

/-- Settles O4: the first two are the frames of their rows; the other two meet a condition of R173. -/
theorem referenceFramesDecode : Obligations.ReferenceFramesDecode := by
  have hcrc : FrameBad [0x62, 0x01, 0x00, 0x07] := by
    rw [frameBad_iff (by decide), Ne]
    show ¬some (0x07 : Byte) = some (crc [0x62, 0x01, 0x00])
    rw [crc_readStatus]
    decide
  have hlength : FrameBad [0x62, 0x01, 0x41] := .inr (.inl (by decide))
  exact ⟨decodeTransaction_row (number := 0x00) (f := ⟨0x00, [], [], []⟩)
      (congrArg (fun c => some ([0x00, 0x00, 0x00, c], [])) crc_nop) rfl rfl,
    decodeTransaction_row (number := 0x62) (f := ⟨0x01, [], [], []⟩)
      (congrArg (fun c => some ([0x62, 0x01, 0x00, c], [])) crc_readStatus) rfl rfl,
    decodeTransaction_badFrame [] nofun hcrc, decodeTransaction_badFrame [] nofun hlength⟩

/-! ### The pin edges of a transaction (R170) -/

theorem Link.rows_append (l : Link) (xs ys : List LinkEdge) :
    l.rows (xs ++ ys) = l.rows xs ++ (l.after xs).rows ys := by
  induction xs generalizing l with
  | nil => rfl
  | cons x xs ih =>
    simp only [List.cons_append, Link.rows, ih, List.append_assoc]
    rfl

theorem Link.samples_append (l : Link) (out : List Bool) (xs ys : List LinkEdge) :
    l.samples out (xs ++ ys) = l.samples out xs ++ (l.after xs).samples out ys := by
  induction xs generalizing l with
  | nil => rfl
  | cons x xs ih =>
    cases x with
    | sckRise mosi =>
      simp only [List.cons_append, Link.samples, ih, List.append_assoc]
      rfl
    | csnFall | csnRise | sckFall | resetnFall | resetnRise => exact ih _

theorem Link.after_append (l : Link) (xs ys : List LinkEdge) : l.after (xs ++ ys) = (l.after xs).after ys :=
  List.foldl_append

/-- While CFG_CSN is high the edges of CFG_SCK are ignored, and CFG_MISO is not driven. -/
theorem Link.idle_ignores (out : List Bool) {edges : List LinkEdge}
    (h : ∀ e ∈ edges, e = .sckFall ∨ ∃ b, e = .sckRise b) :
    Link.idle.rows edges = [] ∧ Link.idle.after edges = .idle ∧ Link.idle.samples out edges = [] := by
  induction edges with
  | nil => exact ⟨rfl, rfl, rfl⟩
  | cons e es ih =>
    rw [List.forall_mem_cons] at h
    obtain ⟨rfl | ⟨b, rfl⟩, hes⟩ := h <;> exact ih hes

/-- The link in a transaction that has carried the bits `got`, one for each rise and fall of CFG_SCK. -/
def Link.taking (got : List Bool) : Link := ⟨true, false, false, got, got.length⟩

/-- The bits that leave while `n + 1` come in, from place `k` on: the bit at that place, then the others. -/
theorem take_outward_succ (out : List Bool) (k n : Nat) :
    (out.drop k ++ List.replicate (n + 1) false).take (n + 1)
      = out.getD k false :: (out.drop (k + 1) ++ List.replicate n false).take n := by
  by_cases hk : k < out.length
  · rw [List.drop_eq_getElem_cons hk, List.getD_eq_getElem _ _ hk, List.cons_append, List.take_succ_cons,
      List.replicate_succ', ← List.append_assoc, List.take_append_of_le_length (by simp)]
  · rw [List.drop_of_length_le (by omega), List.drop_of_length_le (by omega), List.getD_eq_default _ _ (by omega)]
    rfl

/-- One bit of a transaction: it is sampled at the rise, where CFG_MISO carries the bit at the link's place, and the
place moves on at the fall. -/
theorem Link.taking_bit (out got : List Bool) (b : Bool) (edges : List LinkEdge) :
    (Link.taking got).rows (.sckRise b :: .sckFall :: edges) = (Link.taking (got ++ [b])).rows edges ∧
      (Link.taking got).after (.sckRise b :: .sckFall :: edges) = (Link.taking (got ++ [b])).after edges ∧
      (Link.taking got).samples out (.sckRise b :: .sckFall :: edges)
        = out.getD got.length false :: (Link.taking (got ++ [b])).samples out edges := by
  have hnext : ((Link.taking got).edge (.sckRise b)).edge .sckFall = Link.taking (got ++ [b]) := by
    rw [Link.taking, Link.taking, List.length_append]
    rfl
  rw [← hnext]
  exact ⟨rfl, rfl, rfl⟩

theorem Link.taking_bits (out got bits : List Bool) :
    (Link.taking got).rows (bits.flatMap fun b => [.sckRise b, .sckFall]) = [] ∧
      (Link.taking got).after (bits.flatMap fun b => [.sckRise b, .sckFall]) = Link.taking (got ++ bits) ∧
      (Link.taking got).samples out (bits.flatMap fun b => [.sckRise b, .sckFall])
        = (out.drop got.length ++ List.replicate bits.length false).take bits.length := by
  induction bits generalizing got with
  | nil => exact ⟨rfl, congrArg Link.taking (List.append_nil got).symm, rfl⟩
  | cons b bits ih =>
    obtain ⟨hrows, hafter, hsamples⟩ := ih (got ++ [b])
    obtain ⟨hrow, hstep, hsample⟩ := Link.taking_bit out got b (bits.flatMap fun b => [.sckRise b, .sckFall])
    rw [List.length_append] at hsamples
    refine ⟨hrow.trans hrows, ?_, ?_⟩
    · rw [List.append_cons]
      exact hstep.trans hafter
    · rw [List.length_cons, take_outward_succ]
      exact hsample.trans (congrArg _ hsamples)

/-- A transaction on an idle link: one row at its end, and the link is idle again. -/
theorem Link.idle_transaction (out bits : List Bool) :
    Link.idle.rows (transactionEdges bits) = [decodeTransactionBits bits] ∧
      Link.idle.after (transactionEdges bits) = .idle ∧
      Link.idle.samples out (transactionEdges bits)
        = (out ++ List.replicate bits.length false).take bits.length := by
  obtain ⟨hrows, hafter, hsamples⟩ := Link.taking_bits out [] bits
  have hbegin : Link.idle.edge .csnFall = Link.taking [] := rfl
  refine ⟨?_, ?_, ?_⟩
  · show (Link.idle.edge .csnFall).rows (_ ++ [.csnRise]) = _
    rw [hbegin, Link.rows_append, hrows, hafter]
    rfl
  · show (Link.idle.edge .csnFall).after (_ ++ [.csnRise]) = _
    rw [hbegin, Link.after_append, hafter]
    rfl
  · show (Link.idle.edge .csnFall).samples out (_ ++ [.csnRise]) = _
    rw [hbegin, Link.samples_append, hsamples, hafter]
    exact List.append_nil _

/-- Settles O3: decoding and encoding by the judging of the frame, the serial bits byte by byte, and the pin edges bit
by bit. -/
theorem transactionsDecodeAndReencode : Obligations.TransactionsDecodeAndReencode := by
  refine ⟨⟨fun _ _ _ => decodeTransaction_encoded, fun bytes tail => decodeTransactionBits_append bytes⟩,
    fun bytes tail => encodeTransaction_decoded bytes, fun bits out before after h => ?_⟩
  rw [List.forall_mem_append] at h
  obtain ⟨hbefore, hafter⟩ := h
  obtain ⟨hrows₁, hidle₁, hsamples₁⟩ := Link.idle_ignores out hbefore
  obtain ⟨hrows₂, hidle₂, hsamples₂⟩ := Link.idle_transaction out bits
  obtain ⟨hrows₃, -, hsamples₃⟩ := Link.idle_ignores out hafter
  constructor
  · rw [Link.rows_append, Link.rows_append, Link.after_append, hidle₁, hidle₂, hrows₁, hrows₂, hrows₃]
    rfl
  · rw [Link.samples_append, Link.samples_append, Link.after_append, hidle₁, hidle₂, hsamples₁, hsamples₂, hsamples₃,
      List.nil_append, List.append_nil]

end Sys2Proof.Machine
end

section
/-! What the transactions of the configuration port leave that execute no command, and SOFT RESET (R173 to R176). -/

namespace Sys2Proof.Machine

/-- A transaction as a whole: its bytes come in, the old record goes out with them, and the new one takes its place
(R170, R175). -/
theorem State.conclude_receive (s : State) (bytes : List Byte) (tail : List Bool) (r : LastResult) :
    (s.receive bytes).conclude tail r =
      { s with
        misoOut := shiftedOut s.record (8 * bytes.length + tail.length)
        record := r
        rxFrame := []
        linkAbandoned := false } := rfl

/-- The end of a transaction that carried a good frame and executed nothing. -/
theorem State.conclude_frame (s : State) (number : Byte) (f : CommandFrame) (c : ResultCode) :
    (s.receive (frameBytes number f)).conclude f.tail ⟨c, f.seq, number, []⟩ = replied s number f c [] s :=
  State.conclude_eq_replied s (s.receive (frameBytes number f)) number f c [] rfl rfl rfl

/-! ### Bad frames and empty transactions (R171, R173) -/

theorem exec_badFrame {s : State} (hs : s.Released) (number : Byte) (rest : List Byte) (tail : List Bool) :
    exec (.badFrame ⟨number :: rest, tail⟩) s
      = .next ((s.receive (number :: rest)).conclude tail ⟨.badFrame, rest.getD 0 0, number, []⟩) := by
  have hecho : rest.headD 0 = rest.getD 0 0 := by cases rest <;> rfl
  rw [← hecho]
  exact next_of_released hs

theorem exec_emptyTransaction {s : State} (hs : s.Released) (tail : List Bool) :
    exec (.badFrame ⟨[], tail⟩) s = .next ((s.receive []).conclude tail s.record) := next_of_released hs

/-- Settles O5: the bad frames are those the judging finds bad; executing one only concludes its transaction. -/
theorem badFrameRecorded : Obligations.BadFrameRecorded := by
  refine ⟨isBadFrame_iff, fun s number rest tail hs _ => ?_⟩
  rw [exec_badFrame hs, State.conclude_receive, List.length_cons]

/-! ### NOP, a wrong payload length and an unknown command number (R174, R175) -/

theorem exec_nop {s : State} (hs : s.Released) (f : CommandFrame) :
    exec (.nop f) s = .next
      (if f.payload.length = 0 then (s.receive (frameBytes 0x00 f)).conclude f.tail s.record
        else (s.receive (frameBytes 0x00 f)).conclude f.tail ⟨.badArg, f.seq, 0x00, []⟩) := by
  refine Eq.trans (if_neg (by rw [hs]; decide)) ?_
  split <;> rfl

theorem exec_badLength {s : State} {number : Byte} {row : CommandFrame → Instr} {f : CommandFrame} (hs : s.Released)
    (hr : catalogue number = some row) (hfit : payloadFits number f = false) :
    exec (row f) s = .next (replied s number f .badArg [] s) := by
  by_cases hn : number = 0x00
  · subst hn
    cases hr
    rw [exec_nop hs, if_neg (by simpa [payloadFits] using hfit), State.conclude_frame]
  · obtain ⟨body, hexec⟩ := (rowUnder_of_catalogue hr f).runs hn
    rw [hexec, hfit, runCommand_badLength number f body s hs]

theorem exec_badCommand {s : State} (hs : s.Released) (number : Byte) (f : CommandFrame) :
    exec (.badCommand number f) s = .next (replied s number f .badCommand [] s) := by
  rw [← State.conclude_frame]
  exact next_of_released hs

/-- Settles O6: each row concludes its transaction, with the record as it was or with the code of its refusal. -/
theorem recordFollowsTheFrame : Obligations.RecordFollowsTheFrame := by
  refine ⟨fun s f hs hp => ?_, fun s tail hs => ?_, fun s number row f hs => exec_badLength hs,
    fun s number f hs _ => exec_badCommand hs number f⟩
  · rw [exec_nop hs, if_pos (by rw [hp]; rfl), State.conclude_receive, frameBits, List.length_append,
      length_bitsOfBytes]
  · rw [exec_emptyTransaction hs, State.conclude_receive, List.length_nil, Nat.mul_zero, Nat.zero_add]

/-! ### SOFT RESET (R176) -/

theorem State.softReset_slot (s : State) (k : SlotId) : s.softReset.slot k = ⟨(s.slot k).codes, 0⟩ := by
  simp [State.softReset, State.slot]

/-- Settles O9: with no payload the body runs, and what it leaves is read off field by field. -/
theorem softResetEffects : Obligations.SoftResetEffects := by
  intro s f hs
  refine ⟨fun hp => exec_badLength hs rfl (by simpa [payloadFits] using hp), fun hp => ⟨s.softReset, ?_, ?_, ?_⟩⟩
  · exact runCommand_answers hs keepsPort_softReset (by simp [hp]) rfl
  · exact State.surf_of_replicate_vacant rfl
  · exact ⟨s.softReset_slot, rfl, rfl⟩

end Sys2Proof.Machine
end

section
/-! The core while RESETN is asserted (R178, R186): no row is taken, an upstream request waits, and the hard-reset state
stands. -/

namespace Sys2Proof.Machine

/-- The upstream request that a row brings, if it brings one. -/
def requestOf : Instr → Option UpstreamRequest
  | .upstreamWrite w => some (.write w)
  | .upstreamRead r => some (.read r)
  | _ => none

theorem requestOf_eq_none {c : Instr} (hw : ∀ w, c ≠ .upstreamWrite w) (hr : ∀ r, c ≠ .upstreamRead r) :
    requestOf c = none := by
  unfold requestOf
  split
  · exact absurd rfl (hw _)
  · exact absurd rfl (hr _)
  · rfl

/-- While RESETN is asserted a request waits behind those that wait already (R186). -/
theorem State.arrive_inReset {s : State} (hs : s.resetAsserted = true) (q : UpstreamRequest) :
    s.arrive q = s.withUpstream (s.upstream ++ [q]) := if_pos hs

/-- While RESETN is asserted every row but its two edges leaves the state as it is, but for a request that arrives. -/
theorem exec_inReset {s : State} (hs : s.resetAsserted = true) {c : Instr} (hh : ∀ received, c ≠ .hardReset received)
    (hr : ∀ csnLow, c ≠ .resetnRelease csnLow) :
    exec c s = .next ((requestOf c).elim s fun q => s.withUpstream (s.upstream ++ [q])) := by
  cases c with
  | softReset f => exact runCommand_inReset 0x01 f _ (fun s => (.done, s.softReset)) s hs
  | defineSurface f | activateSurface f | retireSurface f | releaseSurface f | readSurface f | addItem f
  | setItem f | removeItem f | moveItem f | clearStaged f | cloneActive f | selectPage f | readItem f | commit f
  | cancelCommit f | writeGlyph f | writePageHeader f | readGlyph f | writeString f | readString f | setClock f
  | holdClock f | adjustClock f | readClock f | setBypass f | drain f | readStatus f | nextNotice f =>
    exact runCommand_inReset _ f _ _ s hs
  | nop _ | badFrame _ | badCommand _ _ | tick | forcedCommit _ | forcedRetirement _ | writeIssue | writeCompletion _
  | heldReadRelease | readResponse _ _ | upstreamAnswer _ | drainMet => exact if_pos hs
  | hardReset received => exact absurd rfl (hh received)
  | resetnRelease csnLow => exact absurd rfl (hr csnLow)
  | upstreamWrite w => exact congrArg _ (State.arrive_inReset hs (.write w))
  | upstreamRead r => exact congrArg _ (State.arrive_inReset hs (.read r))

theorem State.ProceedsTo.resetAsserted {s t : State} (h : s.ProceedsTo t) : t.resetAsserted = s.resetAsserted := by
  obtain ⟨-, hreset, -⟩ := h.outside
  exact hreset

theorem State.settle_resetAsserted (s : State) : s.settle.resetAsserted = s.resetAsserted :=
  s.proceedsTo_settle.resetAsserted

/-- No row but a hard reset asserts RESETN. -/
theorem State.RowDoes.inReset {s t : State} (h : s.RowDoes t) (ht : t.resetAsserted = true) :
    s.resetAsserted = true := by
  cases h with
  | quiet hd h => exact (congrArg Crossing.resetAsserted h.crossing).symm.trans ht
  | waits q hs | begins csnLow hs => exact hs
  | arrives q hs => rwa [State.settle_resetAsserted] at ht
  | issues hs => rwa [s.proceedsTo_issueOne.resetAsserted] at ht
  | releases hs => rwa [s.proceedsTo_releaseOne.resetAsserted] at ht
  | completes st hs => rwa [State.settle_resetAsserted, State.meetDrain_eq, State.completeHead_eq] at ht
  | responds tag ret hs => rwa [State.settle_resetAsserted, State.answerReady_eq, State.respond_eq] at ht
  | answers tag hs => rwa [State.answerOne_eq] at ht
  | meetsDrain hs => rwa [State.meetDrain_eq] at ht

/-- The requests that wait are no part of the hard-reset state. -/
theorem State.ResetStands.withUpstream {s : State} (h : s.ResetStands) (us : List UpstreamRequest) :
    (s.withUpstream us).ResetStands := by
  intro hs
  rw [h hs]
  rfl

/-- A row that leaves RESETN asserted is a hard reset, or it was taken while RESETN was asserted and was not its
release. -/
theorem State.ResetStands.exec {s t : State} {c : Instr} (h : s.ResetStands) (ht : exec c s = .next t) :
    t.ResetStands := by
  by_cases hh : ∃ received, c = .hardReset received
  · obtain ⟨received, rfl⟩ := hh
    cases ht
    exact fun _ => rfl
  · rw [not_exists] at hh
    intro hreset
    obtain ⟨u, hu, hrow⟩ := s.answersRow_exec hh
    obtain rfl : t = u := Host.Outcome.next.inj (ht.symm.trans hu)
    have hs : s.resetAsserted = true := hrow.inReset hreset
    have hr : ∀ csnLow, c ≠ .resetnRelease csnLow := by
      rintro csnLow rfl
      obtain rfl : (s.released csnLow).settle = t := Host.Outcome.next.inj ((if_pos hs).symm.trans ht)
      rw [State.settle_resetAsserted] at hreset
      cases hreset
    rw [exec_inReset hs hh hr] at ht
    cases ht
    revert hreset
    cases requestOf c with
    | none => exact h
    | some q => exact h.withUpstream _

/-- Settles O11: under reset a row does nothing but let a request wait, so what stands in the hard-reset state stays
there. -/
theorem resetHoldsTheCore : Obligations.ResetHoldsTheCore := by
  refine ⟨fun s c hs => ?_, fun s t h ht => ?_⟩
  · split
    · trivial
    · trivial
    · exact exec_inReset hs nofun nofun
    · exact exec_inReset hs nofun nofun
    · rename_i hh hr hw hread
      rw [exec_inReset hs hh hr, requestOf_eq_none hw hread]
      rfl
  · unfold step at ht
    split at ht
    · cases ht
      exact h
    · exact State.ResetStands.exec (s := { s with pending := _ }) (fun hs => by rw [h hs]) ht

end Sys2Proof.Machine
end
